-- ==== Sys2Proof/Word.lean ====
section
/-! DEFINITION. The bit-vector widths of the block (spec 00_scope R5, R6): all values are unsigned. -/

namespace Sys2Proof

/-- A register or a command word: 32 bits (00_scope R5). -/
abbrev Word := BitVec 32

/-- One LMEM location, one channel, one payload byte: 8 bits (00_scope R5). -/
abbrev Byte := BitVec 8

/-- An 8-bit field that carries one nibble (00_scope R12, "Slot"). -/
abbrev Slot := BitVec 8

/-- A 4-bit operand field of a command word (30_encoding R93). -/
abbrev Nibble := BitVec 4

/-- The 24-bit count of format C (30_encoding R92). -/
abbrev Count24 := BitVec 24

end Sys2Proof
end

