-- ==== Sys2Proof/Syntax.lean ====
section
/-! DEFINITION. The command set NUC1 (spec 30_encoding R94): one constructor per row of the opcode table. -/

namespace Sys2Proof

/-- A command of NUC1. Every operand is an unsigned field of exactly its width (30_encoding R93), so every term of
this type is a legal command; the operand ranges of the assembler (R98) are checked on `AsmLine` in WellFormed. -/
inductive Instr where
  /-- NOP (46 R221). -/
  | nop
  /-- ENC (46 R222). -/
  | enc
  /-- DEC (46 R230). -/
  | dec
  /-- CAPQ (42 R146). -/
  | capq
  /-- UNPK b (41 R123): format B. -/
  | unpk (b8 : Byte)
  /-- PADC n (42 R145): format C. -/
  | padc (n24 : Count24)
  /-- DPIX t0, t1, t2 (43 R163): format T. -/
  | dpix (t0 t1 t2 : Nibble)
  /-- GPIX (43 R166). -/
  | gpix
  /-- RPK s0, s1 (44 R184): format P. -/
  | rpk (s0 s1 : Slot)
  /-- TDET b (45 R205): format B. -/
  | tdet (b8 : Byte)
  deriving DecidableEq, Repr

end Sys2Proof
end

