-- ==== Sys2Proof/WellFormed.lean ====
section
/-! DEFINITION. The assembler's lines and their operand ranges (spec 30_encoding R98). A command as `Instr` is well-formed
by its type; an assembler line carries plain numbers, and "an operand outside its range is an assembly error". -/

namespace Sys2Proof

/-- One line of the assembler syntax of 30_encoding R98, with its operands as plain numbers. -/
inductive AsmLine where
  | nop
  | enc
  | dec
  | capq
  | unpk (b : Nat)
  | padc (n : Nat)
  | dpix (t0 t1 t2 : Nat)
  | gpix
  | rpk (s0 s1 : Nat)
  | tdet (b : Nat)
  /-- `.word v`, an arbitrary 32-bit word. -/
  | word (v : Nat)
  deriving DecidableEq, Repr

/-- The operand ranges of 30_encoding R98. -/
def AsmLine.wf : AsmLine → Bool
  | .nop | .enc | .dec | .capq | .gpix => true
  | .unpk b => decide (b ≤ 255)
  | .padc n => decide (n ≤ 0xFFFFFF)
  | .dpix t0 t1 t2 => decide (t0 ≤ 15) && decide (t1 ≤ 15) && decide (t2 ≤ 15)
  | .rpk s0 s1 => decide (s0 ≤ 255) && decide (s1 ≤ 255)
  | .tdet b => decide (b ≤ 255)
  | .word v => decide (v < 2 ^ 32)

end Sys2Proof
end

