-- ==== Sys2Proof/Decode.lean ====
section
/-! DEFINITION. Decoding a command word by the opcode map (spec 30_encoding R94, R95), rejecting by name (R96); the
encoder (R91, R92, R98); and the assembler (R98). -/

namespace Sys2Proof

/-- Why a word is illegal (30_encoding R96). -/
inductive Illegal where
  /-- OP is one of the six reserved opcodes 0xA to 0xF. -/
  | reservedOpcode
  /-- SUB is not 0. -/
  | subNotZero
  /-- An MBZ bit of the command's format is 1. -/
  | mbzBitSet
  deriving DecidableEq, Repr

/-- The OP field (30_encoding R91). -/
def opField (w : Word) : BitVec 4 := w.extractLsb' 28 4

/-- The SUB field (30_encoding R91). -/
def subField (w : Word) : BitVec 4 := w.extractLsb' 24 4

/-- B8 of format B, and S1 of format P (30_encoding R92). -/
def lowByteField (w : Word) : Byte := w.extractLsb' 0 8

/-- S0 of format P (30_encoding R92). -/
def s0Field (w : Word) : Slot := w.extractLsb' 8 8

/-- N24 of format C (30_encoding R92). -/
def n24Field (w : Word) : Count24 := w.extractLsb' 0 24

/-- T0 of format T (30_encoding R92). -/
def t0Field (w : Word) : Nibble := w.extractLsb' 8 4

/-- T1 of format T (30_encoding R92). -/
def t1Field (w : Word) : Nibble := w.extractLsb' 4 4

/-- T2 of format T (30_encoding R92). -/
def t2Field (w : Word) : Nibble := w.extractLsb' 0 4

/-- One row of the opcode map (30_encoding R94): a word selects it iff `w & mask = pattern`. -/
structure OpcodeRow where
  pattern : Word
  mask : Word
  /-- The row's command, with the fields of its format taken from the word. -/
  command : Word → Instr

/-- A word selects a row (30_encoding R94). -/
def OpcodeRow.selects (r : OpcodeRow) (w : Word) : Bool := w &&& r.mask == r.pattern

/-- The opcode map (30_encoding R94), in the table's order. -/
def opcodeMap : List OpcodeRow :=
  [ ⟨0x00000000, 0xFFFFFFFF, fun _ => .nop⟩,
    ⟨0x10000000, 0xFFFFFFFF, fun _ => .enc⟩,
    ⟨0x20000000, 0xFFFFFFFF, fun _ => .dec⟩,
    ⟨0x30000000, 0xFFFFFFFF, fun _ => .capq⟩,
    ⟨0x40000000, 0xFFFFFF00, fun w => .unpk (lowByteField w)⟩,
    ⟨0x50000000, 0xFF000000, fun w => .padc (n24Field w)⟩,
    ⟨0x60000000, 0xFFFFF000, fun w => .dpix (t0Field w) (t1Field w) (t2Field w)⟩,
    ⟨0x70000000, 0xFFFFFFFF, fun _ => .gpix⟩,
    ⟨0x80000000, 0xFFFF0000, fun w => .rpk (s0Field w) (lowByteField w)⟩,
    ⟨0x90000000, 0xFFFFFF00, fun w => .tdet (lowByteField w)⟩ ]

/-- The name of the reason for which a word that no row selects is illegal (30_encoding R96). -/
def illegalReason (w : Word) : Illegal :=
  if 0xA ≤ (opField w).toNat then .reservedOpcode
  else if subField w ≠ 0 then .subNotZero
  else .mbzBitSet

/-- Decoding (30_encoding R95): the first row the word selects, else illegal, by name. -/
def decode (w : Word) : Except Illegal Instr :=
  match opcodeMap.find? (fun r => r.selects w) with
  | some r => .ok (r.command w)
  | none => .error (illegalReason w)

/-- The instruction the decoder reads from the table's bits: one 32-bit word, whose bit 0 is the table's bit 0
(30_encoding R90); a shorter `nbits` leaves the bits above it 0. -/
def decodeTableWord (nbits w : Nat) : Option Instr :=
  match decode (BitVec.ofNat 32 (w % 2 ^ nbits)) with
  | .ok i => some i
  | .error _ => none

/-! The encoder: OP, SUB = 0, IMM24 (30_encoding R91). -/

/-- The OP of each command (30_encoding R94). -/
def opcodeOf : Instr → BitVec 4
  | .nop => 0x0
  | .enc => 0x1
  | .dec => 0x2
  | .capq => 0x3
  | .unpk _ => 0x4
  | .padc _ => 0x5
  | .dpix _ _ _ => 0x6
  | .gpix => 0x7
  | .rpk _ _ => 0x8
  | .tdet _ => 0x9

/-- IMM24 by the command's format, every MBZ bit 0 (30_encoding R92). -/
def imm24Of : Instr → BitVec 24
  | .nop | .enc | .dec | .capq | .gpix => 0
  | .unpk b8 => 0#16 ++ b8
  | .padc n24 => n24
  | .dpix t0 t1 t2 => 0#12 ++ t0 ++ t1 ++ t2
  | .rpk s0 s1 => 0#8 ++ s0 ++ s1
  | .tdet b8 => 0#16 ++ b8

/-- The command word (30_encoding R91). -/
def encode (i : Instr) : Word := opcodeOf i ++ 0#4 ++ imm24Of i

/-! The assembler (30_encoding R98). -/

/-- The word a line writes, before its operands' ranges are looked at (30_encoding R98, the column "word"). -/
def asmWordNat : AsmLine → Nat
  | .nop => 0x00000000
  | .enc => 0x10000000
  | .dec => 0x20000000
  | .capq => 0x30000000
  | .unpk b => 0x40000000 + b
  | .padc n => 0x50000000 + n
  | .dpix t0 t1 t2 => 0x60000000 + t0 * 2 ^ 8 + t1 * 2 ^ 4 + t2
  | .gpix => 0x70000000
  | .rpk s0 s1 => 0x80000000 + s0 * 2 ^ 8 + s1
  | .tdet b => 0x90000000 + b
  | .word v => v

/-- Assembling one line: an operand outside its range is an error, never truncated (30_encoding R98). -/
def assemble (l : AsmLine) : Option Word :=
  if l.wf then some (BitVec.ofNat 32 (asmWordNat l)) else none

/-- The value of a hexadecimal digit. -/
def hexDigit (c : Char) : Option Nat :=
  if '0' ≤ c ∧ c ≤ '9' then some (c.toNat - '0'.toNat)
  else if 'a' ≤ c ∧ c ≤ 'f' then some (c.toNat - 'a'.toNat + 10)
  else if 'A' ≤ c ∧ c ≤ 'F' then some (c.toNat - 'A'.toNat + 10)
  else none

/-- Digits in a base, after the value `acc`; an `_` only groups digits (00_scope R6; log entry 13). -/
def digits (base acc : Nat) : List Char → Option Nat
  | [] => some acc
  | '_' :: cs => digits base acc cs
  | c :: cs =>
    match hexDigit c with
    | some d => if d < base then digits base (acc * base + d) cs else none
    | none => none

/-- A decimal or `0x` hexadecimal operand, with one digit at least (30_encoding R98). -/
def number : List Char → Option Nat
  | '0' :: 'x' :: cs => if cs.all (· == '_') then none else digits 16 0 cs
  | cs => if cs.all (· == '_') then none else digits 10 0 cs

/-- Drops the spaces at both ends. -/
def trimSpaces (cs : List Char) : List Char :=
  ((cs.dropWhile (· == ' ')).reverse.dropWhile (· == ' ')).reverse

/-- The pieces between commas. -/
def splitCommas : List Char → List (List Char)
  | [] => [[]]
  | ',' :: cs => [] :: splitCommas cs
  | c :: cs =>
    match splitCommas cs with
    | [] => [[c]]
    | p :: ps => (c :: p) :: ps

/-- The operands of a line, separated by a comma and optional spaces (30_encoding R98). -/
def operandsOf (cs : List Char) : Option (List Nat) :=
  if trimSpaces cs = [] then some [] else (splitCommas cs).mapM fun p => number (trimSpaces p)

/-- One line of text, a lower-case mnemonic and its operands (30_encoding R98). -/
def parseLine (cs : List Char) : Option AsmLine :=
  let line := trimSpaces cs
  match operandsOf (line.dropWhile (· != ' ')) with
  | none => none
  | some ops =>
    match line.takeWhile (· != ' '), ops with
    | ['n', 'o', 'p'], [] => some .nop
    | ['e', 'n', 'c'], [] => some .enc
    | ['d', 'e', 'c'], [] => some .dec
    | ['c', 'a', 'p', 'q'], [] => some .capq
    | ['u', 'n', 'p', 'k'], [b] => some (.unpk b)
    | ['p', 'a', 'd', 'c'], [n] => some (.padc n)
    | ['d', 'p', 'i', 'x'], [t0, t1, t2] => some (.dpix t0 t1 t2)
    | ['g', 'p', 'i', 'x'], [] => some .gpix
    | ['r', 'p', 'k'], [s0, s1] => some (.rpk s0 s1)
    | ['t', 'd', 'e', 't'], [b] => some (.tdet b)
    | ['.', 'w', 'o', 'r', 'd'], [v] => some (.word v)
    | _, _ => none

end Sys2Proof
end

