-- ==== Sys2Proof/Config.lean ====
section
/-! DEFINITION. What an implementation fixes: the OPEN parameters of spec 00_scope R5 and the constant ID (10_state R25). -/

namespace Sys2Proof

/-- The implementation parameters of 00_scope R5 that the platform or the chip fixes. A machine carries one such
record in `State.platform`, and no step changes it (log entry 1). -/
structure Platform where
  /-- REG_BASE: the host address of the register window. -/
  regBase : Nat
  /-- LMEM_BASE: the host address of the LMEM window. -/
  lmemBase : Nat
  /-- LMEM_BYTES: the local memory's size in bytes. -/
  lmemBytes : Nat
  deriving DecidableEq, Repr

/-- 00_scope R5: LMEM_BYTES is a power of two with 2^8 ≤ LMEM_BYTES ≤ 2^24. -/
def Platform.wf (p : Platform) : Bool :=
  (List.range 17).any fun k => p.lmemBytes == 2 ^ (8 + k)

/-- REG_BASE, OPEN (00_scope R5; log entry 1). -/
opaque Config.regBase : Nat

/-- LMEM_BASE, OPEN (00_scope R5; log entry 1). -/
opaque Config.lmemBase : Nat

/-- The base-two logarithm of LMEM_BYTES, less 8: OPEN within the 17 sizes 00_scope R5 allows (log entry 1). -/
opaque Config.lmemSizeStep : Fin 17

/-- The platform of `State.reset`: every value the spec leaves OPEN is a constant that nothing can evaluate. -/
def Config.platform : Platform :=
  { regBase := Config.regBase
    lmemBase := Config.lmemBase
    lmemBytes := 2 ^ (8 + Config.lmemSizeStep.val) }

/-- The identification constant (10_state R25): "NU", version 1. -/
def Config.idValue : Word := 0x4E550001

end Sys2Proof
end

