-- ==== Sys2Proof/Machine/State.lean ====
section
/-! DEFINITION. The state of the block as plain data (spec 10_state R45, field for field), the events that drive it, the
reasons a step stops, and the state after power-on. -/

namespace Sys2Proof.Machine

/-- LMEM (20_memory R60, R62): the written bytes, addresses strictly rising. An unlisted address is UNWRITTEN: it reads
as no value, so no entry can equal what an unlisted address reads as (log entry 3). -/
abbrev Memory := List Host.Cell

/-- The error causes of 60_exceptions R262, but for NONE. -/
inductive Cause where
  | illegalCmd
  | config
  | addrRange
  | overlap
  | capacity
  | pixRange
  | cmdOverrun
  deriving DecidableEq, Repr

/-- A `raise`: the cause and its ERR_INFO value (60_exceptions R262). -/
structure Raise where
  cause : Cause
  info : Word
  deriving DecidableEq, Repr

/-- The registers of the window (10_state R24). -/
inductive Reg where
  | id
  | ctrl
  | status
  | cmd
  | errInfo
  | res0
  | res1
  | pixIdx
  | payBase
  | payLen
  | gridBase
  | gridW
  | gridH
  | gridNch
  | outBase
  | outMax
  | lmemSize
  deriving DecidableEq, Repr

/-- One bus access of the host: a host address, a width in bytes, and for a write the value (20_memory R63, R64). -/
inductive HostAccess where
  | read (addr bytes : Nat)
  | write (addr bytes : Nat) (value : Word)
  deriving DecidableEq, Repr

/-- An event of the total order of steps (20_memory R74): a turn of the core, a bus access of the host, the reset input
(70_reset R300), or power-on (70_reset R300, R301). -/
inductive Event where
  | core
  | host (access : HostAccess)
  | reset
  | powerOn
  deriving DecidableEq, Repr

/-- The whole state: the record of 10_state R45, and after it the model's own fields (platform, script, reads). -/
structure State where
  /-- CTRL.IE_DONE (10_state R26). -/
  ctrlIeDone : Bool
  /-- CTRL.IE_ERR (10_state R26). -/
  ctrlIeErr : Bool
  /-- STATUS.BUSY (10_state R27). -/
  busy : Bool
  /-- STATUS.DONE (10_state R27). -/
  done : Bool
  /-- STATUS.ERR (10_state R27). -/
  err : Bool
  /-- STATUS.ERR_OVF (10_state R27). -/
  errOvf : Bool
  /-- STATUS.CAP_OK (10_state R27). -/
  capOk : Bool
  /-- STATUS.TERM_FOUND (10_state R27). -/
  termFound : Bool
  /-- STATUS.TRUNC (10_state R27). -/
  trunc : Bool
  /-- STATUS.CAUSE (10_state R27). -/
  cause : BitVec 4
  /-- ERR_INFO (10_state R30). -/
  errInfo : Word
  /-- RES0 (10_state R31). -/
  res0 : Word
  /-- RES1 (10_state R32). -/
  res1 : Word
  /-- PIX_IDX (10_state R33). -/
  pixIdx : Word
  /-- PAY_BASE (10_state R34). -/
  payBase : Word
  /-- PAY_LEN (10_state R35). -/
  payLen : Word
  /-- GRID_BASE (10_state R36). -/
  gridBase : Word
  /-- OUT_BASE (10_state R39). -/
  outBase : Word
  /-- OUT_MAX (10_state R39). -/
  outMax : Word
  /-- GRID_W (10_state R37). -/
  gridW : BitVec 16
  /-- GRID_H (10_state R37). -/
  gridH : BitVec 16
  /-- GRID_NCH (10_state R38). -/
  gridNch : BitVec 4
  /-- CMD_LATCH, hidden (10_state R41). -/
  cmdLatch : Word
  /-- LMEM (10_state R45; 20_memory R62). -/
  lmem : Memory
  /-- The OPEN parameters (00_scope R5), which no step changes (log entry 1). -/
  platform : Platform
  /-- The events still to come, oldest first: the model's own field (log entry 4). -/
  script : List Event
  /-- What the host's reads have returned, newest first: the model's own field (log entry 5). -/
  reads : List Word
  deriving DecidableEq, Repr

/-- Why the machine stops: the model faults of 60_exceptions R275 and the `requires` of 20_memory R61. -/
inductive Fault where
  /-- UNWRITTEN_READ by the core (20_memory R61; 60_exceptions R275): the address and the executing command. Raised by
  the MemRead of ENC, DEC, DPIX and GPIX. Safe: the chip returns some value and goes on (log entry 3). -/
  | unwrittenRead (addr : Nat) (command : Instr)
  /-- UNWRITTEN_READ by the host (20_memory R64; 60_exceptions R275). Raised by a host LMEM read. Safe (log entry 3). -/
  | hostUnwrittenRead (addr : Nat)
  /-- A MemRead or MemWrite outside LMEM (20_memory R61): raised by the two primitives, and never reached, since every
  command checks its regions first. Safe (log entry 7). -/
  | lmemOutOfRange (addr : Nat)
  deriving DecidableEq, Repr

/-- Why a step is refused. -/
inductive Refusal where
  /-- An instruction without a meaning yet: none is left. Raised by exec's refused arms only. Safe. -/
  | notModelled (mnemonic : String)
  /-- A host register access that is not 32 bits wide at a multiple of 4: a bus error, refused (20_memory R63; 70_reset
  R312). Raised by a host access. Safe (log entry 6). -/
  | registerBusError (off bytes : Nat)
  /-- A host LMEM access that is misaligned, out of range, or neither 1 nor 4 bytes wide: a bus error, refused
  (20_memory R64; 70_reset R312). Raised by a host access. Safe (log entry 6). -/
  | lmemBusError (addr bytes : Nat)
  /-- A host address in neither window: not an access of this block (20_memory R60). Raised by a host access. Safe (log
  entry 8). -/
  | addressOutsideWindows (addr : Nat)
  /-- A host address in both windows, when the platform lets them meet (20_memory R72 leaves their places open). Raised by
  a host access. Safe (log entry 8). -/
  | addressInBothWindows (addr : Nat)
  deriving DecidableEq, Repr

/-- What the next step does, from the state given with it (10_state R20): the core executes its pending command, the
host makes one access, or the step is settled without either. -/
inductive Turn where
  | core (s : State)
  | host (access : HostAccess) (s : State)
  | settled (s : State)
  deriving DecidableEq, Repr

/-- The state after power-on on a given platform: every register at its reset value (10_state R24; 70_reset R300), every
LMEM byte UNWRITTEN (20_memory R62). CMD_LATCH has no reset value in the spec: 0 is DESIGN CHOICE (log entry 2), as are
the empty script and reads (log entries 4 and 5). -/
def State.powerOn (p : Platform) : State :=
  { ctrlIeDone := false
    ctrlIeErr := false
    busy := false
    done := false
    err := false
    errOvf := false
    capOk := false
    termFound := false
    trunc := false
    cause := 0
    errInfo := 0
    res0 := 0
    res1 := 0
    pixIdx := 0
    payBase := 0
    payLen := 0
    gridBase := 0
    outBase := 0
    outMax := 0
    gridW := 0
    gridH := 0
    gridNch := 4
    cmdLatch := 0
    lmem := []
    platform := p
    script := []
    reads := [] }

/-- The machine right after power-on and reset (70_reset R300, R301), on the platform whose parameters are OPEN. -/
def State.reset : State := State.powerOn Config.platform

end Sys2Proof.Machine
end

