-- ==== Sys2Proof/Machine/Ops.lean ====
section
/-! DEFINITION. The named operations over LMEM and the registers (spec 20_memory R61, R62), the ending of a command
(46 R220), error entry as one operation (60_exceptions R262 to R264, R271) and the return from an error (R272). -/

namespace Sys2Proof.Machine

/-! LMEM as a list of cells. -/

/-- The value of a written byte, none where the byte is UNWRITTEN (20_memory R62). -/
def Memory.read : Memory → Nat → Option Byte
  | [], _ => none
  | (k, v) :: m, a => if k = a then some v else Memory.read m a

/-- Stores one byte and keeps the addresses rising (20_memory R61). -/
def Memory.write : Memory → Nat → Byte → Memory
  | [], a, b => [(a, b)]
  | (k, v) :: m, a, b =>
    if a < k then (a, b) :: (k, v) :: m
    else if a = k then (a, b) :: m
    else (k, v) :: Memory.write m a b

/-- The canonical form: addresses strictly rising. -/
def Memory.wf : Memory → Bool
  | [] => true
  | [_] => true
  | x :: y :: m => decide (x.1 < y.1) && Memory.wf (y :: m)

/-- Every written byte lies in LMEM: its address is below LMEM_BYTES (10_state R45). -/
def Memory.within (m : Memory) (size : Nat) : Bool := m.all fun c => decide (c.1 < size)

/-! One setter per field that a command writes. -/

/-- Replaces LMEM. -/
def setLmem (m : Memory) (s : State) : State := { s with lmem := m }

/-- `reg(RES0) <- v` with `trunc_32` (10_state R21, R31). -/
def writeRes0 (v : Nat) (s : State) : State := { s with res0 := BitVec.ofNat 32 v }

/-- `reg(RES1) <- v` with `trunc_32` (10_state R21, R32). -/
def writeRes1 (v : Nat) (s : State) : State := { s with res1 := BitVec.ofNat 32 v }

/-- `reg(PIX_IDX) <- v` with `trunc_32` (10_state R21, R33). -/
def writePixIdx (v : Nat) (s : State) : State := { s with pixIdx := BitVec.ofNat 32 v }

/-- `STATUS.CAP_OK <- b` (10_state R27). -/
def setCapOk (b : Bool) (s : State) : State := { s with capOk := b }

/-- `STATUS.TERM_FOUND <- b` (10_state R27). -/
def setTermFound (b : Bool) (s : State) : State := { s with termFound := b }

/-- `STATUS.TRUNC <- b` (10_state R27). -/
def setTrunc (b : Bool) (s : State) : State := { s with trunc := b }

/-- `STATUS.BUSY <- 0; STATUS.DONE <- 1`, the end of every core step (46 R220). -/
def finish (s : State) : State := { s with busy := false, done := true }

/-- The rest of the script after an event has been taken (log entry 4). -/
def setScript (es : List Event) (s : State) : State := { s with script := es }

/-- A value returned to the host (log entry 5). -/
def returnRead (v : Word) (s : State) : State := { s with reads := v :: s.reads }

/-! The core's two LMEM primitives (20_memory R61). -/

/-- `MemRead(a, 1)` by the executing command: an UNWRITTEN byte is the fault UNWRITTEN_READ (20_memory R61). -/
def memRead (command : Instr) (s : State) (a : Nat) : Except Fault Byte :=
  if a < s.platform.lmemBytes then
    match s.lmem.read a with
    | some b => .ok b
    | none => .error (.unwrittenRead a command)
  else .error (.lmemOutOfRange a)

/-- `MemWrite(a, 1, v)` (20_memory R61). -/
def memWrite (a : Nat) (v : Byte) (s : State) : Except Fault State :=
  if a < s.platform.lmemBytes then .ok (setLmem (s.lmem.write a v) s) else .error (.lmemOutOfRange a)

/-- The bytes `base .. base + n - 1`, in address order (46 R222, R223). -/
def readBytes (command : Instr) (s : State) : Nat → Nat → Except Fault (List Byte)
  | _, 0 => .ok []
  | a, n + 1 => do
    let b ← memRead command s a
    let bs ← readBytes command s (a + 1) n
    .ok (b :: bs)

/-- Stores bytes at rising addresses from `a` (46 R230, R233). -/
def writeBytes : Nat → List Byte → State → Except Fault State
  | _, [], s => .ok s
  | a, b :: bs, s => do
    let s' ← memWrite a b s
    writeBytes (a + 1) bs s'

/-! How a command ends. -/

/-- Completion: the command's writes stand, BUSY <- 0, DONE <- 1 (46 R220; 60_exceptions R260). -/
def complete (s : State) : Host.Outcome State Fault Refusal := .next (finish s)

/-- Completion of a transform that may meet a model fault (46 R220; 60_exceptions R260, R275). -/
def completeOrFault : Except Fault State → Host.Outcome State Fault Refusal
  | .ok s => complete s
  | .error f => .fault f

/-- The cause codes of 60_exceptions R262. -/
def Cause.code : Cause → BitVec 4
  | .illegalCmd => 1
  | .config => 2
  | .addrRange => 3
  | .overlap => 4
  | .capacity => 5
  | .pixRange => 6
  | .cmdOverrun => 7

/-- `record_error` (60_exceptions R263): the first error is kept, a later one only sets ERR_OVF. -/
def recordError (r : Raise) (s : State) : State :=
  if s.err then { s with errOvf := true }
  else { s with err := true, cause := r.cause.code, errInfo := r.info }

/-- Error entry, the block's analogue of a trap, as one operation (60_exceptions R262, R263, R271; 46 R220): the error is
recorded, BUSY <- 0, DONE <- 1, and nothing else changes. -/
def raise (r : Raise) (s : State) : Host.Outcome State Fault Refusal := .next (finish (recordError r s))

/-- An illegal word reaching the core (60_exceptions R265). -/
def illegalCommand (w : Word) (s : State) : Host.Outcome State Fault Refusal := raise ⟨.illegalCmd, w⟩ s

/-- The first `raise` of a list of checks, each with the condition under which it fails (60_exceptions R266). -/
def firstRaise : List (Bool × Raise) → Option Raise
  | [] => none
  | (failed, r) :: checks => if failed then some r else firstRaise checks

/-- Return from an error, a host write of `v` to STATUS (10_state R29; 60_exceptions R272): W1C of DONE, ERR and ERR_OVF,
and clearing ERR clears CAUSE and ERR_INFO. -/
def clearStatus (v : Word) (s : State) : State :=
  { s with
    done := s.done && !v.getLsbD 1
    errOvf := s.errOvf && !v.getLsbD 3
    err := s.err && !v.getLsbD 2
    cause := if v.getLsbD 2 then 0 else s.cause
    errInfo := if v.getLsbD 2 then 0 else s.errInfo }

/-- A host write of `w` to CMD (10_state R28): accepted while idle, an overrun while busy (60_exceptions R268). -/
def acceptCommand (w : Word) (s : State) : State :=
  if s.busy then recordError ⟨.cmdOverrun, w⟩ s
  else { s with cmdLatch := w, busy := true, done := false }

/-- The reset input (70_reset R300, R301): every register at its reset value, a pending command discarded, LMEM kept. The
platform, the script and the returned reads are not the block's registers (log entries 1, 4, 5). -/
def assertReset (s : State) : State :=
  { State.powerOn s.platform with lmem := s.lmem, script := s.script, reads := s.reads }

/-- Power-on: as reset on the registers, and every LMEM byte UNWRITTEN (70_reset R300, R301; 60_exceptions R281). -/
def applyPowerOn (s : State) : State :=
  { State.powerOn s.platform with script := s.script, reads := s.reads }

end Sys2Proof.Machine
end

