-- ==== Sys2Proof/Machine/Operands.lean ====
section
/-! DEFINITION. What commands read as operands: the regions of LMEM (spec 20_memory R65 to R68), the pixel addresses (43
R160), and the check lists of 60_exceptions R267. -/

namespace Sys2Proof.Machine

/-- A region of LMEM (20_memory R66). -/
structure Region where
  base : Nat
  size : Nat
  deriving DecidableEq, Repr

/-- A region is in range (20_memory R67), in exact arithmetic. -/
def Region.inRange (lmemBytes : Nat) (r : Region) : Bool :=
  r.size == 0 || decide (r.base + r.size ≤ lmemBytes)

/-- Two regions overlap (20_memory R68), in exact arithmetic. -/
def Region.overlaps (r q : Region) : Bool :=
  decide (0 < r.size) && decide (0 < q.size) && decide (r.base < q.base + q.size) && decide (q.base < r.base + r.size)

/-- An address lies in a region (20_memory R66). -/
def Region.contains (r : Region) (a : Nat) : Bool := decide (r.base ≤ a) && decide (a < r.base + r.size)

/-- The grid registers as one command step reads them: GRID_BASE, GRID_W, GRID_H, GRID_NCH (20_memory R65). -/
structure Grid where
  base : Nat
  width : Nat
  height : Nat
  nch : Nat
  deriving DecidableEq, Repr

/-- The grid a state's registers name. -/
def gridOf (s : State) : Grid :=
  { base := s.gridBase.toNat, width := s.gridW.toNat, height := s.gridH.toNat, nch := s.gridNch.toNat }

/-- The pixel count W * H, exact (10_state R37). -/
def Grid.pixels (g : Grid) : Nat := g.width * g.height

/-- The grid region (20_memory R66). -/
def Grid.region (g : Grid) : Region := ⟨g.base, g.width * g.height * g.nch⟩

/-- The LMEM address of channel c of pixel p (20_memory R65). -/
def Grid.addr (g : Grid) (p c : Nat) : Nat := g.base + p * g.nch + c

/-- The row-major index of the pixel at column x and row y (43 R160). -/
def Grid.pixelIndex (g : Grid) (x y : Nat) : Nat := y * g.width + x

/-- The column of pixel p (43 R160). -/
def Grid.column (g : Grid) (p : Nat) : Nat := p % g.width

/-- The row of pixel p (43 R160). -/
def Grid.row (g : Grid) (p : Nat) : Nat := p / g.width

/-- GRID_NCH is legal (10_state R38). -/
def nchLegal (s : State) : Bool := s.gridNch == 3 || s.gridNch == 4

/-- The payload region (20_memory R66). -/
def payloadRegion (s : State) : Region := ⟨s.payBase.toNat, s.payLen.toNat⟩

/-- The output region (20_memory R66). -/
def outputRegion (s : State) : Region := ⟨s.outBase.toNat, s.outMax.toNat⟩

/-- The check of GRID_NCH (60_exceptions R262, CONFIG). -/
def checkConfig (s : State) : Bool × Raise := (!nchLegal s, ⟨.config, s.gridNch.setWidth 32⟩)

/-- The range check of the region with the given id (60_exceptions R262, ADDR_RANGE; 20_memory R67). -/
def checkRange (s : State) (r : Region) (regionId : Word) : Bool × Raise :=
  (!r.inRange s.platform.lmemBytes, ⟨.addrRange, regionId⟩)

/-- The overlap check of two regions (60_exceptions R262, OVERLAP; 20_memory R68). -/
def checkOverlap (r q : Region) (info : Word) : Bool × Raise := (r.overlaps q, ⟨.overlap, info⟩)

/-- The checks CAPQ and ENC make before the capacity check, in order (60_exceptions R267). -/
def payloadGridChecks (s : State) : List (Bool × Raise) :=
  [ checkConfig s,
    checkRange s (payloadRegion s) 1,
    checkRange s (gridOf s).region 2,
    checkOverlap (payloadRegion s) (gridOf s).region 0x12 ]

/-- The checks of DEC, in order (60_exceptions R267). -/
def gridOutputChecks (s : State) : List (Bool × Raise) :=
  [ checkConfig s,
    checkRange s (gridOf s).region 2,
    checkRange s (outputRegion s) 3,
    checkOverlap (gridOf s).region (outputRegion s) 0x23 ]

/-- The checks of DPIX and GPIX, in order (60_exceptions R267). -/
def pixelChecks (s : State) : List (Bool × Raise) :=
  [ checkConfig s,
    checkRange s (gridOf s).region 2,
    (decide ((gridOf s).pixels ≤ s.pixIdx.toNat), ⟨.pixRange, s.pixIdx⟩) ]

end Sys2Proof.Machine
end

