-- ==== Sys2Proof/Machine/Flags.lean ====
section
/-! DEFINITION. The flag computations: CAP_OK (spec 42 R142 to R144), TERM_FOUND (45 R200), TRUNC (46 R233), the STATUS and
CTRL words (10_state R26, R27) and the IRQ output (10_state R42; 60_exceptions R270). -/

namespace Sys2Proof.Machine

/-- `Pad(n)` (42 R140): the zero nibbles appended to a sequence of length n. -/
def padCount (n : Nat) : Nat := (3 - n % 3) % 3

/-- `ReqPixels(L)` (42 R142). -/
def reqPixels (payLen : Nat) : Nat := (2 * (payLen + 1) + padCount (2 * (payLen + 1))) / 3

/-- `CapOK(L, W, H)` (42 R143). -/
def capacityOk (payLen w h : Nat) : Bool := decide (reqPixels payLen ≤ w * h)

/-- `MaxPayload(C)` (42 R144): none where no payload fits. -/
def maxPayload (pixels : Nat) : Option Nat := if pixels = 0 then none else some (3 * pixels / 2 - 1)

/-- `IsTerm(b)` (45 R200). -/
def isTerm (b : Byte) : Bool := b == 0

/-- TRUNC (46 R233): the decoded length does not fit in OUT_MAX. -/
def truncates (len outMax : Nat) : Bool := decide (outMax < len)

/-- CTRL as the host reads it (10_state R26). -/
def ctrlWord (s : State) : Word := 0#30 ++ BitVec.ofBool s.ctrlIeErr ++ BitVec.ofBool s.ctrlIeDone

/-- STATUS as the host reads it (10_state R27). -/
def statusWord (s : State) : Word :=
  0#20 ++ s.cause ++ 0#1 ++ BitVec.ofBool s.trunc ++ BitVec.ofBool s.termFound ++ BitVec.ofBool s.capOk
    ++ BitVec.ofBool s.errOvf ++ BitVec.ofBool s.err ++ BitVec.ofBool s.done ++ BitVec.ofBool s.busy

/-- The IRQ output, a function of state at every instant (10_state R42; 60_exceptions R270). -/
def irq (s : State) : Bool := (s.done && s.ctrlIeDone) || (s.err && s.ctrlIeErr)

end Sys2Proof.Machine
end

