-- ==== Sys2Proof/Machine/Unpacker.lean ====
section
/-! DEFINITION. Unit 1, nibble_unpacker (spec 41): bytes to nibbles, and UNPK. -/

namespace Sys2Proof.Machine

/-- The high nibble of a byte in its slot, bits [7:4] (41 R120). -/
def highNibble (b : Byte) : Slot := (b >>> 4) &&& 0x0F

/-- The low nibble of a byte in its slot, bits [3:0] (41 R120). -/
def lowNibble (b : Byte) : Slot := b &&& 0x0F

/-- `Unpack(b)`: two nibbles, high first (41 R120). -/
def unpack (b : Byte) : List Slot := [highNibble b, lowNibble b]

/-- `Terminated(u)` (41 R121). -/
def terminated (u : List Byte) : List Byte := u ++ [0x00]

/-- `NibbleSeq(u)` (41 R122). -/
def nibbleSeq (u : List Byte) : List Slot := (terminated u).flatMap unpack

/-- UNPK (41 R123): RES0 holds the high slot in [15:8] and the low slot in [7:0]. -/
def execUnpk (b8 : Byte) (s : State) : Host.Outcome State Fault Refusal :=
  complete (writeRes0 ((highNibble b8).toNat <<< 8 ||| (lowNibble b8).toNat) s)

end Sys2Proof.Machine
end

