-- ==== Sys2Proof/Machine/Padding.lean ====
section
/-! DEFINITION. Unit 2, padding_scheduler (spec 42): padding to a multiple of 3, PADC and CAPQ. -/

namespace Sys2Proof.Machine

/-- `PadSeq(s)` (42 R141): zero nibbles at the end, to a multiple of 3. -/
def padSeq (q : List Slot) : List Slot := q ++ List.replicate (padCount q.length) 0

/-- PADC (42 R145): RES0 = n + Pad(n), RES1 = Pad(n). -/
def execPadc (n24 : Count24) (s : State) : Host.Outcome State Fault Refusal :=
  complete (writeRes1 (padCount n24.toNat) (writeRes0 (n24.toNat + padCount n24.toNat) s))

/-- CAPQ (42 R146): ENC's checks, then P, 3P and the capacity result, with no CAPACITY error. -/
def execCapq (s : State) : Host.Outcome State Fault Refusal :=
  match firstRaise (payloadGridChecks s) with
  | some r => raise r s
  | none =>
    complete (setCapOk (capacityOk s.payLen.toNat s.gridW.toNat s.gridH.toNat)
      (writeRes1 (3 * reqPixels s.payLen.toNat) (writeRes0 (reqPixels s.payLen.toNat) s)))

end Sys2Proof.Machine
end

