-- ==== Sys2Proof/Machine/Distributor.lean ====
section
/-! DEFINITION. Unit 3, pixel_channel_distributor (spec 43): nibbles to pixel channels and back, DPIX and GPIX. -/

namespace Sys2Proof.Machine

/-- `Embed(v, n)` (43 R162): the high nibble of v is kept, the low nibble becomes n. -/
def embed (v : Byte) (n : Slot) : Byte := (v &&& 0xF0) ||| n

/-- `Extract(v)` (43 R162). -/
def extract (v : Byte) : Slot := v &&& 0x0F

/-- A MemRead then a MemWrite of one channel byte (43 R164; 46 R225). -/
def embedAt (command : Instr) (a : Nat) (n : Slot) (s : State) : Except Fault State := do
  let v ← memRead command s a
  memWrite a (embed v n) s

/-- Embeds a triple in R, G and B of pixel p, in that order (43 R163, R164). -/
def embedPixel (command : Instr) (g : Grid) (p : Nat) (n0 n1 n2 : Slot) (s : State) : Except Fault State := do
  let s1 ← embedAt command (g.addr p 0) n0 s
  let s2 ← embedAt command (g.addr p 1) n1 s1
  embedAt command (g.addr p 2) n2 s2

/-- The low nibbles of R, G and B of pixel p, in that order (43 R165, R166). -/
def extractPixel (command : Instr) (g : Grid) (p : Nat) (s : State) : Except Fault (Slot × Slot × Slot) := do
  let r ← memRead command s (g.addr p 0)
  let gr ← memRead command s (g.addr p 1)
  let b ← memRead command s (g.addr p 2)
  .ok (extract r, extract gr, extract b)

/-- `WriteTriples(q, P)` from pixel p on (43 R164): consecutive groups of 3 in lockstep with the pixels. -/
def writeTriples (command : Instr) (g : Grid) : Nat → List Slot → State → Except Fault State
  | p, n0 :: n1 :: n2 :: q, s => do
    let s' ← embedPixel command g p n0 n1 n2 s
    writeTriples command g (p + 1) q s'
  | _, _, s => .ok s

/-- `GatherAll()` over the n pixels from pixel p on (43 R165). -/
def gatherPixels (command : Instr) (g : Grid) (s : State) : Nat → Nat → Except Fault (List Slot)
  | _, 0 => .ok []
  | p, n + 1 => do
    let (r, gr, b) ← extractPixel command g p s
    let rest ← gatherPixels command g s (p + 1) n
    .ok (r :: gr :: b :: rest)

/-- DPIX (43 R163). -/
def execDpix (t0 t1 t2 : Nibble) (s : State) : Host.Outcome State Fault Refusal :=
  match firstRaise (pixelChecks s) with
  | some r => raise r s
  | none =>
    completeOrFault do
      let s' ← embedPixel (.dpix t0 t1 t2) (gridOf s) s.pixIdx.toNat
        (t0.setWidth 8) (t1.setWidth 8) (t2.setWidth 8) s
      .ok (writePixIdx (s.pixIdx.toNat + 1) s')

/-- GPIX (43 R166): RES0 holds the R slot in [23:16], the G slot in [15:8], the B slot in [7:0]. -/
def execGpix (s : State) : Host.Outcome State Fault Refusal :=
  match firstRaise (pixelChecks s) with
  | some r => raise r s
  | none =>
    completeOrFault do
      let (r, g, b) ← extractPixel .gpix (gridOf s) s.pixIdx.toNat s
      .ok (writePixIdx (s.pixIdx.toNat + 1) (writeRes0 (r.toNat <<< 16 ||| g.toNat <<< 8 ||| b.toNat) s))

end Sys2Proof.Machine
end

