-- ==== Sys2Proof/Machine/Repacker.lean ====
section
/-! DEFINITION. Unit 4, nibble_repacker (spec 44): nibble pairs to bytes, and RPK. -/

namespace Sys2Proof.Machine

/-- `OddPad(s)` (44 R180). -/
def oddPad (q : List Slot) : List Slot := if q.length % 2 = 1 then q ++ [0] else q

/-- `Repack(s0, s1)` (44 R181): the bits of s0 << 4 above bit 7 are discarded. -/
def repack (s0 s1 : Slot) : Byte := (s0 <<< 4) ||| (s1 &&& 0x0F)

/-- The bytes of a sequence of even length, two slots at a time, in order (44 R182). -/
def repackPairs : List Slot → List Byte
  | s0 :: s1 :: q => repack s0 s1 :: repackPairs q
  | _ => []

/-- `Bytes(s)` (44 R182). -/
def bytesOf (q : List Slot) : List Byte := repackPairs (oddPad q)

/-- RPK (44 R184). -/
def execRpk (s0 s1 : Slot) (s : State) : Host.Outcome State Fault Refusal :=
  complete (writeRes0 (repack s0 s1).toNat s)

end Sys2Proof.Machine
end

