-- ==== Sys2Proof/Machine/Terminator.lean ====
section
/-! DEFINITION. Unit 5, terminator_detector (spec 45): the first 0x00 byte, and TDET. -/

namespace Sys2Proof.Machine

/-- `Terminate(bs)` (45 R201): the bytes before the first 0x00, and whether there is one. -/
def terminate : List Byte → List Byte × Bool
  | [] => ([], false)
  | b :: bs => if isTerm b then ([], true) else (b :: (terminate bs).1, (terminate bs).2)

/-- TDET (45 R205). -/
def execTdet (b8 : Byte) (s : State) : Host.Outcome State Fault Refusal :=
  complete (setTermFound (isTerm b8) (writeRes0 (isTerm b8).toNat s))

end Sys2Proof.Machine
end

