-- ==== Sys2Proof/Machine/Codec.lean ====
section
/-! DEFINITION. NOP and the two whole transforms, ENC and DEC (spec 46). -/

namespace Sys2Proof.Machine

/-- NOP (46 R221). -/
def execNop (s : State) : Host.Outcome State Fault Refusal := complete s

/-- ENC's transform (46 R222, R223, R225): the payload is read once, then embedded. -/
def encodeGrid (s : State) : Except Fault State := do
  let u ← readBytes .enc s s.payBase.toNat s.payLen.toNat
  writeTriples .enc (gridOf s) 0 (padSeq (nibbleSeq u)) s

/-- ENC (46 R222, R224, R226). -/
def execEnc (s : State) : Host.Outcome State Fault Refusal :=
  match firstRaise (payloadGridChecks s) with
  | some r => raise r s
  | none =>
    if capacityOk s.payLen.toNat s.gridW.toNat s.gridH.toNat then
      completeOrFault do
        let s' ← encodeGrid (setCapOk true s)
        .ok (writeRes1 (3 * reqPixels s.payLen.toNat) (writeRes0 (reqPixels s.payLen.toNat) s'))
    else
      raise ⟨.capacity, BitVec.ofNat 32 (reqPixels s.payLen.toNat)⟩ (setCapOk false s)

/-- DEC's transform up to the truncated result (46 R230): gather, reassemble, terminate. -/
def decodeGrid (s : State) : Except Fault (List Byte × Bool) := do
  let q ← gatherPixels .dec (gridOf s) s 0 (gridOf s).pixels
  .ok (terminate (bytesOf q))

/-- DEC (46 R230, R232 to R234). -/
def execDec (s : State) : Host.Outcome State Fault Refusal :=
  match firstRaise (gridOutputChecks s) with
  | some r => raise r s
  | none =>
    completeOrFault do
      let (r, found) ← decodeGrid s
      let k := min r.length s.outMax.toNat
      let s' ← writeBytes s.outBase.toNat (r.take k) s
      .ok (setTrunc (truncates r.length s.outMax.toNat) (setTermFound found
        (writeRes1 k (writeRes0 r.length s'))))

end Sys2Proof.Machine
end

