-- ==== Sys2Proof/Machine/HostBus.lean ====
section
/-! DEFINITION. The host's side of the block: the register window (spec 10_state R24 to R40), the LMEM window (20_memory
R63, R64), the hold (70_reset R311, R312), and which agent's step comes next (10_state R20). -/

namespace Sys2Proof.Machine

/-! The register window. -/

/-- The byte offset of each register (10_state R24). -/
def Reg.offset : Reg → Nat
  | .id => 0x00
  | .ctrl => 0x04
  | .status => 0x08
  | .cmd => 0x0C
  | .errInfo => 0x10
  | .res0 => 0x14
  | .res1 => 0x18
  | .pixIdx => 0x1C
  | .payBase => 0x20
  | .payLen => 0x24
  | .gridBase => 0x28
  | .gridW => 0x2C
  | .gridH => 0x30
  | .gridNch => 0x34
  | .outBase => 0x38
  | .outMax => 0x3C
  | .lmemSize => 0x40

/-- The registers of the window, in the order of their offsets (10_state R24). -/
def allRegs : List Reg :=
  [.id, .ctrl, .status, .cmd, .errInfo, .res0, .res1, .pixIdx, .payBase, .payLen, .gridBase, .gridW, .gridH,
    .gridNch, .outBase, .outMax, .lmemSize]

/-- The register at an offset; none at the reserved offsets 0x44 to 0xFC (10_state R24). -/
def regAt (off : Nat) : Option Reg := allRegs.find? fun r => r.offset == off

/-- `reg(NAME)`, a register read: bits outside the implemented ones read 0, and CMD reads 0 (10_state R21, R24 to R40). A
read has no side effect (20_memory R71). -/
def readReg (r : Reg) (s : State) : Word :=
  match r with
  | .id => Config.idValue
  | .ctrl => ctrlWord s
  | .status => statusWord s
  | .cmd => 0
  | .errInfo => s.errInfo
  | .res0 => s.res0
  | .res1 => s.res1
  | .pixIdx => s.pixIdx
  | .payBase => s.payBase
  | .payLen => s.payLen
  | .gridBase => s.gridBase
  | .gridW => s.gridW.setWidth 32
  | .gridH => s.gridH.setWidth 32
  | .gridNch => s.gridNch.setWidth 32
  | .outBase => s.outBase
  | .outMax => s.outMax
  | .lmemSize => BitVec.ofNat 32 s.platform.lmemBytes

/-- A write to an RWL register: ignored while BUSY = 1 (10_state R24; 70_reset R313). -/
def whileIdle (s written : State) : State := if s.busy then s else written

/-- A host write to a register, by its access code (10_state R24 to R40; 70_reset R312). -/
def writeReg (r : Reg) (v : Word) (s : State) : State :=
  match r with
  | .id => s
  | .ctrl => { s with ctrlIeDone := v.getLsbD 0, ctrlIeErr := v.getLsbD 1 }
  | .status => clearStatus v s
  | .cmd => acceptCommand v s
  | .errInfo => s
  | .res0 => s
  | .res1 => s
  | .pixIdx => whileIdle s { s with pixIdx := v }
  | .payBase => whileIdle s { s with payBase := v }
  | .payLen => whileIdle s { s with payLen := v }
  | .gridBase => whileIdle s { s with gridBase := v }
  | .gridW => whileIdle s { s with gridW := v.setWidth 16 }
  | .gridH => whileIdle s { s with gridH := v.setWidth 16 }
  | .gridNch => whileIdle s { s with gridNch := v.setWidth 4 }
  | .outBase => whileIdle s { s with outBase := v }
  | .outMax => whileIdle s { s with outMax := v }
  | .lmemSize => s

/-- The word a host read of the window returns; a reserved offset reads 0 (10_state R24). -/
def readWindow (off : Nat) (s : State) : Word :=
  match regAt off with
  | some r => readReg r s
  | none => 0

/-- A host write of the window; a reserved offset ignores it (10_state R24). -/
def writeWindow (off : Nat) (v : Word) (s : State) : State :=
  match regAt off with
  | some r => writeReg r v s
  | none => s

/-- A register access is defined: 32 bits wide at a multiple of 4 (20_memory R63). -/
def registerAccessLegal (off bytes : Nat) : Bool := bytes == 4 && off % 4 == 0

/-! The LMEM window. -/

/-- The `requires` clauses of 20_memory R64: 1 byte anywhere in LMEM, or 4 bytes aligned and inside. -/
def lmemAccessLegal (lmemBytes a bytes : Nat) : Bool :=
  (bytes == 1 && decide (a < lmemBytes)) || (bytes == 4 && a % 4 == 0 && decide (a + 4 ≤ lmemBytes))

/-- One byte read by the host (20_memory R62, R64). -/
def hostByte (s : State) (a : Nat) : Except Fault Byte :=
  match s.lmem.read a with
  | some b => .ok b
  | none => .error (.hostUnwrittenRead a)

/-- `HostRead(a, 1)`, and otherwise `HostRead(a, 4)`, little-endian (20_memory R64, R69). -/
def hostReadLmem (s : State) (a bytes : Nat) : Except Fault Word := do
  let b0 ← hostByte s a
  if bytes = 1 then .ok (b0.setWidth 32)
  else
    let b1 ← hostByte s (a + 1)
    let b2 ← hostByte s (a + 2)
    let b3 ← hostByte s (a + 3)
    .ok (b3 ++ b2 ++ b1 ++ b0)

/-- `HostWrite(a, 1, v)`, and otherwise `HostWrite(a, 4, v)`, little-endian (20_memory R64, R69). -/
def hostWriteLmem (m : Memory) (a bytes : Nat) (v : Word) : Memory :=
  if bytes = 1 then m.write a (v.extractLsb' 0 8)
  else
    (((m.write a (v.extractLsb' 0 8)).write (a + 1) (v.extractLsb' 8 8)).write (a + 2) (v.extractLsb' 16 8)).write
      (a + 3) (v.extractLsb' 24 8)

/-! One bus access. -/

/-- The host address of an access. -/
def accessAddr : HostAccess → Nat
  | .read a _ => a
  | .write a _ _ => a

/-- The width of an access in bytes. -/
def accessBytes : HostAccess → Nat
  | .read _ n => n
  | .write _ n _ => n

/-- A host address lies in the 256-byte register window (20_memory R60, R63). -/
def inRegWindow (p : Platform) (addr : Nat) : Bool := decide (p.regBase ≤ addr) && decide (addr < p.regBase + 256)

/-- A host address lies in the LMEM window (20_memory R60, R64). -/
def inLmemWindow (p : Platform) (addr : Nat) : Bool :=
  decide (p.lmemBase ≤ addr) && decide (addr < p.lmemBase + p.lmemBytes)

/-- A host register access at offset `off` (20_memory R63; 70_reset R312). -/
def hostRegisterStep (off : Nat) (access : HostAccess) (s : State) : Host.Outcome State Fault Refusal :=
  if registerAccessLegal off (accessBytes access) then
    match access with
    | .read _ _ => .next (returnRead (readWindow off s) s)
    | .write _ _ v => .next (writeWindow off v s)
  else .refused (.registerBusError off (accessBytes access))

/-- A host LMEM access at core address `a`, while BUSY = 0 (20_memory R64; 70_reset R312). -/
def hostLmemStep (a : Nat) (access : HostAccess) (s : State) : Host.Outcome State Fault Refusal :=
  if lmemAccessLegal s.platform.lmemBytes a (accessBytes access) then
    match access with
    | .read _ n =>
      match hostReadLmem s a n with
      | .ok v => .next (returnRead v s)
      | .error f => .fault f
    | .write _ n v => .next (setLmem (hostWriteLmem s.lmem a n v) s)
  else .refused (.lmemBusError a (accessBytes access))

/-- One host step (10_state R20): the access reaches the window its address lies in (20_memory R60, R63, R64). -/
def hostStep (access : HostAccess) (s : State) : Host.Outcome State Fault Refusal :=
  if inRegWindow s.platform (accessAddr access) then
    if inLmemWindow s.platform (accessAddr access) then .refused (.addressInBothWindows (accessAddr access))
    else hostRegisterStep (accessAddr access - s.platform.regBase) access s
  else if inLmemWindow s.platform (accessAddr access) then
    hostLmemStep (accessAddr access - s.platform.lmemBase) access s
  else .refused (.addressOutsideWindows (accessAddr access))

/-- A host access is held (20_memory R64; 70_reset R311, R312): a legal LMEM access while BUSY = 1. -/
def hostHeld (access : HostAccess) (s : State) : Bool :=
  s.busy && inLmemWindow s.platform (accessAddr access) && !inRegWindow s.platform (accessAddr access)
    && lmemAccessLegal s.platform.lmemBytes (accessAddr access - s.platform.lmemBase) (accessBytes access)

/-- Which step comes next (10_state R20; 20_memory R74; 70_reset R311, R316). The head of the script decides; a held
access waits in the script while the core steps; with nothing left to come, a pending command is executed (fairness), and
an idle block keeps its state (60_exceptions R281). A turn of the core while it is idle passes (log entries 4 and 9). -/
def nextTurn (s : State) : Turn :=
  match s.script with
  | [] => if s.busy then .core s else .settled s
  | .core :: es => if s.busy then .core (setScript es s) else .settled (setScript es s)
  | .host a :: es => if hostHeld a s then .core s else .host a (setScript es s)
  | .reset :: es => .settled (assertReset (setScript es s))
  | .powerOn :: es => .settled (applyPowerOn (setScript es s))

/-- A run has ended (70_reset R317): the host has executed its last access and the core has no enabled step. DESIGN CHOICE
(log entry 15): a reset, a power-on or a core turn still in the script keeps the run open too; R317 does not speak of one. -/
def runEnded (s : State) : Bool := s.script.isEmpty && !s.busy

/-! The host-program notation of 30_encoding R99, as events. -/

/-- `wr NAME, v` (30_encoding R99). -/
def wrReg (p : Platform) (r : Reg) (v : Word) : Event := .host (.write (p.regBase + r.offset) 4 v)

/-- `rd NAME` (30_encoding R99). -/
def rdReg (p : Platform) (r : Reg) : Event := .host (.read (p.regBase + r.offset) 4)

/-- `wb a, v` (30_encoding R99). -/
def wbLmem (p : Platform) (a : Nat) (v : Word) : Event := .host (.write (p.lmemBase + a) 1 v)

/-- `rb a` (30_encoding R99). -/
def rbLmem (p : Platform) (a : Nat) : Event := .host (.read (p.lmemBase + a) 1)

/-- `ww a, v` (30_encoding R99). -/
def wwLmem (p : Platform) (a : Nat) (v : Word) : Event := .host (.write (p.lmemBase + a) 4 v)

/-- `rw a` (30_encoding R99). -/
def rwLmem (p : Platform) (a : Nat) : Event := .host (.read (p.lmemBase + a) 4)

/-- `issue c` (30_encoding R99). -/
def issueCmd (p : Platform) (c : Instr) : List Event := [wrReg p .cmd (encode c)]

/-- `wait` (30_encoding R99), unrolled: n polls of STATUS that find BUSY = 1, the core's step, and the poll that finds
BUSY = 0 (log entry 10). -/
def waitFor (p : Platform) (n : Nat) : List Event := List.replicate n (rdReg p .status) ++ [.core, rdReg p .status]

/-- `run c` (30_encoding R99), with n polls that find BUSY = 1. -/
def runCmd (p : Platform) (n : Nat) (c : Instr) : List Event := issueCmd p c ++ waitFor p n

/-- `clrst` (30_encoding R99). -/
def clrst (p : Platform) : List Event := [wrReg p .status 0x0000000E]

end Sys2Proof.Machine
end

