-- ==== Sys2Proof/Machine/Dispatch.lean ====
section
/-! DEFINITION. The dispatch of a decoded command to its meaning (spec 46 R220), one arm per constructor of Instr. -/

namespace Sys2Proof.Machine

def exec (i : Instr) (s : State) : Host.Outcome State Fault Refusal :=
  match i with
  | .nop => Sys2Proof.Machine.execNop s
  | .enc => Sys2Proof.Machine.execEnc s
  | .dec => Sys2Proof.Machine.execDec s
  | .capq => Sys2Proof.Machine.execCapq s
  | .unpk b8 => Sys2Proof.Machine.execUnpk b8 s
  | .padc n24 => Sys2Proof.Machine.execPadc n24 s
  | .dpix t0 t1 t2 => Sys2Proof.Machine.execDpix t0 t1 t2 s
  | .gpix => Sys2Proof.Machine.execGpix s
  | .rpk s0 s1 => Sys2Proof.Machine.execRpk s0 s1 s
  | .tdet b8 => Sys2Proof.Machine.execTdet b8 s

end Sys2Proof.Machine
end

