-- ==== Sys2Proof/Machine/Sequencer.lean ====
section
/-! DEFINITION. The core's step (spec 46 R220). -/

namespace Sys2Proof.Machine

/-- CoreStep (46 R220): decode CMD_LATCH, execute the command, or record ILLEGAL_CMD. -/
def coreStep (s : State) : Host.Outcome State Fault Refusal :=
  match decode s.cmdLatch with
  | .ok i => exec i s
  | .error _ => illegalCommand s.cmdLatch s

end Sys2Proof.Machine
end

