-- ==== Sys2Proof/Machine/Step.lean ====
section
/-! DEFINITION. The machine's step (spec 10_state R20), and the load of one command that stands for a fetch. -/

namespace Sys2Proof.Machine

/-- One step of the machine: of the core, of the host, or of neither (10_state R20; 20_memory R74). -/
def step (s : State) : Host.Outcome State Fault Refusal :=
  match nextTurn s with
  | .core s' => coreStep s'
  | .host access s' => hostStep access s'
  | .settled s' => .next s'

/-- The state in which a host write of the word to CMD has just been accepted (10_state R28) and the core's turn comes
next. The block fetches nothing (10_state R23; 20_memory R77), so this stands for the fetch (log entry 4). -/
def State.withFetchWord (s : State) (nbits w : Nat) : State :=
  { s with
    cmdLatch := BitVec.ofNat 32 (w % 2 ^ nbits)
    busy := true
    done := false
    script := .core :: s.script }

end Sys2Proof.Machine
end

