-- ==== Sys2Proof/Safety.lean ====
section
/-! DEFINITION. What claims are stated in: the conditions under which commands complete (spec 60_exceptions R266, 20_memory
R67, R68), the LMEM footprints (20_memory R79), the values ENC and DEC compute, said byte by byte (46 R222, R230), and the
invariant of the machine. -/

namespace Sys2Proof.Machine

/-! Conditions on the registers. -/

/-- GRID_NCH is 3 or 4 (10_state R38). -/
abbrev ConfigOk (s : State) : Prop := s.gridNch = 3#4 ∨ s.gridNch = 4#4

/-- A region is in range of the machine's LMEM (20_memory R67). -/
abbrev RegionOk (s : State) (r : Region) : Prop := r.size = 0 ∨ r.base + r.size ≤ s.platform.lmemBytes

/-- Two regions share a byte, in the words of 20_memory R68. -/
abbrev RegionsOverlap (r q : Region) : Prop :=
  0 < r.size ∧ 0 < q.size ∧ r.base < q.base + q.size ∧ q.base < r.base + r.size

/-- The checks of CAPQ, and of ENC but for the capacity, all pass (42 R146; 46 R222). -/
abbrev PayloadGridOk (s : State) : Prop :=
  ConfigOk s ∧ RegionOk s (payloadRegion s) ∧ RegionOk s (gridOf s).region
    ∧ ¬ RegionsOverlap (payloadRegion s) (gridOf s).region

/-- The checks of DEC all pass (46 R230). -/
abbrev GridOutputOk (s : State) : Prop :=
  ConfigOk s ∧ RegionOk s (gridOf s).region ∧ RegionOk s (outputRegion s)
    ∧ ¬ RegionsOverlap (gridOf s).region (outputRegion s)

/-- The checks of DPIX and GPIX all pass (43 R163, R166). -/
abbrev PixelOk (s : State) : Prop :=
  ConfigOk s ∧ RegionOk s (gridOf s).region ∧ s.pixIdx.toNat < (gridOf s).pixels

/-- The required pixel count of the configured payload, ceil(2 (L + 1) / 3) (42 R142). -/
def requiredPixels (s : State) : Nat := (2 * (s.payLen.toNat + 1) + 2) / 3

/-- The conditions under which a command ends without an error (60_exceptions R267): a decoded command with no checks of its
own always does. -/
def CommandOk (i : Instr) (s : State) : Prop :=
  match i with
  | .enc => PayloadGridOk s ∧ requiredPixels s ≤ (gridOf s).pixels
  | .capq => PayloadGridOk s
  | .dec => GridOutputOk s
  | .dpix _ _ _ => PixelOk s
  | .gpix => PixelOk s
  | .nop | .unpk _ | .padc _ | .rpk _ _ | .tdet _ => True

/-! Conditions on a host address. -/

/-- A host address lies in the 256-byte register window, in the words of 20_memory R63. -/
abbrev AtRegWindow (p : Platform) (addr : Nat) : Prop := p.regBase ≤ addr ∧ addr < p.regBase + 256

/-- A host address lies in the LMEM window, in the words of 20_memory R64. -/
abbrev AtLmemWindow (p : Platform) (addr : Nat) : Prop := p.lmemBase ≤ addr ∧ addr < p.lmemBase + p.lmemBytes

/-! Which LMEM bytes are written, and which a command may touch (20_memory R79). -/

/-- R, G and B of the first n pixels of the grid have been written since power-on (20_memory R62). -/
abbrev ChannelsWritten (s : State) (n : Nat) : Prop :=
  ∀ p, p < n → ∀ c, c < 3 → (s.lmem.read ((gridOf s).addr p c)).isSome = true

/-- R, G and B of the pixel at PIX_IDX have been written. -/
abbrev PixelWritten (s : State) : Prop :=
  ∀ c, c < 3 → (s.lmem.read ((gridOf s).addr s.pixIdx.toNat c)).isSome = true

/-- Every payload byte has been written. -/
abbrev PayloadWritten (s : State) : Prop :=
  ∀ i, i < s.payLen.toNat → (s.lmem.read (s.payBase.toNat + i)).isSome = true

/-- `a` is channel R, G or B of one of the first n pixels (20_memory R65, R79). -/
def IsChannelOf (s : State) (n a : Nat) : Prop := ∃ p, p < n ∧ ∃ c, c < 3 ∧ a = (gridOf s).addr p c

/-- `a` is channel R, G or B of the pixel at PIX_IDX (20_memory R79). -/
def IsPixelChannel (s : State) (a : Nat) : Prop := ∃ c, c < 3 ∧ a = (gridOf s).addr s.pixIdx.toNat c

/-- The LMEM bytes a command may read (20_memory R79). -/
def mayRead (i : Instr) (s : State) (a : Nat) : Prop :=
  match i with
  | .enc => (s.payBase.toNat ≤ a ∧ a < s.payBase.toNat + s.payLen.toNat) ∨ IsChannelOf s (requiredPixels s) a
  | .dec => IsChannelOf s (gridOf s).pixels a
  | .dpix _ _ _ => IsPixelChannel s a
  | .gpix => IsPixelChannel s a
  | .nop | .capq | .unpk _ | .padc _ | .rpk _ _ | .tdet _ => False

/-- The LMEM bytes a command may write (20_memory R79); DEC's written bytes are the first RES1 of the output region. -/
def mayWrite (i : Instr) (s t : State) (a : Nat) : Prop :=
  match i with
  | .enc => IsChannelOf s (requiredPixels s) a
  | .dec => s.outBase.toNat ≤ a ∧ a < s.outBase.toNat + t.res1.toNat
  | .dpix _ _ _ => IsPixelChannel s a
  | .nop | .capq | .unpk _ | .padc _ | .gpix | .rpk _ _ | .tdet _ => False

/-! What ENC embeds and what DEC recovers, said without the unit functions. -/

/-- The value of an LMEM byte, and 0 where it is UNWRITTEN: used only where the byte is written. -/
def byteOr0 (s : State) (a : Nat) : Byte := (s.lmem.read a).getD 0

/-- Nibble k of the padded nibble sequence of the configured payload: the nibbles of the payload bytes, high first, then the
terminator's and the padding's zeros (41 R122; 42 R141). -/
def payloadNibble (s : State) (k : Nat) : Slot :=
  if k / 2 < s.payLen.toNat then
    if k % 2 = 0 then byteOr0 s (s.payBase.toNat + k / 2) >>> 4 else byteOr0 s (s.payBase.toNat + k / 2) &&& 0x0F
  else 0

/-- Nibble k of the grid's channels in row-major order, and after the last the zero of OddPad (43 R161, R165; 44 R180). -/
def gridNibble (s : State) (k : Nat) : Slot :=
  if k < 3 * (gridOf s).pixels then byteOr0 s ((gridOf s).addr (k / 3) (k % 3)) &&& 0x0F else 0

/-- Byte j reassembled from the grid (44 R182). -/
def gridByte (s : State) (j : Nat) : Byte := (gridNibble s (2 * j) <<< 4) ||| gridNibble s (2 * j + 1)

/-- How many bytes the whole grid gives: ceil(3 W H / 2) (44 R182; 46 R234). -/
def gridByteCount (s : State) : Nat := (3 * (gridOf s).pixels + 1) / 2

/-! The errors. -/

/-- The state after an error, written out (60_exceptions R263, R264, R271): the first error is kept, a later one sets
ERR_OVF, and only BUSY and DONE change beside. -/
def afterError (code : BitVec 4) (info : Word) (s : State) : State :=
  { s with
    err := true
    errOvf := s.errOvf || s.err
    cause := if s.err then s.cause else code
    errInfo := if s.err then s.errInfo else info
    busy := false
    done := true }

/-! The invariant. -/

/-- CAUSE and ERR_INFO read 0 while ERR = 0, and CAUSE is one of the seven causes while ERR = 1 (60_exceptions R262). -/
def ErrorRecordOk (s : State) : Prop :=
  (s.err = false → s.cause = 0 ∧ s.errInfo = 0) ∧ (s.err = true → 1 ≤ s.cause.toNat ∧ s.cause.toNat ≤ 7)

/-- The invariant of the machine: a legal LMEM size (00_scope R5), canonical memory inside LMEM (10_state R45), a consistent
error record (60_exceptions R262, R263), and DONE = 0 while a command is pending (10_state R27, R28). -/
def BlockInv (s : State) : Prop :=
  s.platform.wf = true ∧ s.lmem.wf = true ∧ s.lmem.within s.platform.lmemBytes = true ∧ ErrorRecordOk s
    ∧ (s.busy = true → s.done = false)

end Sys2Proof.Machine
end

