-- ==== Sys2Proof/Certificates/Slice0/Obligations.lean ====
section
/-! DEFINITION. The statements about the model, each from the rules of the spec its docstring names. -/

open Sys2Proof Sys2Proof.Machine

/-! Encoding (30_encoding). -/

/-- 30_encoding R91, R92, R94, R95: every command, at every value of its operands, is decoded from its own word. -/
def Obligations.DecodeOfEncode : Prop := ∀ i : Instr, decode (encode i) = .ok i

/-- 30_encoding R91, R94, R95: a legal word is the word of the command it decodes to, so no bit of it is dropped. -/
def Obligations.EncodeOfDecode : Prop := ∀ (w : Word) (i : Instr), decode w = .ok i → encode i = w

/-- 30_encoding R96: a word is illegal exactly when OP is 0xA to 0xF, or SUB is not 0, or an MBZ bit of the command's
format is 1. -/
def Obligations.IllegalExactlyWhenReserved : Prop :=
  ∀ w : Word, (∃ e, decode w = .error e) ↔
    (10 ≤ (w.extractLsb' 28 4).toNat ∨ w.extractLsb' 24 4 ≠ 0#4
      ∨ (w.extractLsb' 28 4 ∈ [0x0#4, 0x1#4, 0x2#4, 0x3#4, 0x7#4] ∧ w.extractLsb' 0 24 ≠ 0#24)
      ∨ (w.extractLsb' 28 4 ∈ [0x4#4, 0x9#4] ∧ w.extractLsb' 8 16 ≠ 0#16)
      ∨ (w.extractLsb' 28 4 = 0x6#4 ∧ w.extractLsb' 12 12 ≠ 0#12)
      ∨ (w.extractLsb' 28 4 = 0x8#4 ∧ w.extractLsb' 16 8 ≠ 0#8))

/-- 30_encoding R94: no word selects two rows of the opcode map. -/
def Obligations.OpcodeRowsDisjoint : Prop :=
  opcodeMap.Pairwise fun r q => ∀ w : Word, ¬ (r.selects w = true ∧ q.selects w = true)

/-- 30_encoding R94, R98, with words written out from the spec's own tables: one of each format. -/
def Obligations.DecodeSpecWords : Prop :=
  decode 0x10000000 = .ok .enc ∧ decode 0x40000041 = .ok (.unpk 0x41) ∧ decode 0x50FFFFFD = .ok (.padc 0xFFFFFD)
    ∧ decode 0x60000123 = .ok (.dpix 1 2 3) ∧ decode 0x800004F2 = .ok (.rpk 0x04 0xF2)
    ∧ decode 0x90000080 = .ok (.tdet 0x80)

/-- 30_encoding R98: a line assembles to its command's word when its operands are in range, and to nothing otherwise. -/
def Obligations.AssemblerNeverTruncates : Prop :=
  (∀ b, assemble (.unpk b) = if b ≤ 255 then some (encode (.unpk (BitVec.ofNat 8 b))) else none)
    ∧ (∀ n, assemble (.padc n) = if n ≤ 0xFFFFFF then some (encode (.padc (BitVec.ofNat 24 n))) else none)
    ∧ (∀ t0 t1 t2, assemble (.dpix t0 t1 t2) = if t0 ≤ 15 ∧ t1 ≤ 15 ∧ t2 ≤ 15 then
        some (encode (.dpix (BitVec.ofNat 4 t0) (BitVec.ofNat 4 t1) (BitVec.ofNat 4 t2))) else none)
    ∧ (∀ s0 s1, assemble (.rpk s0 s1) = if s0 ≤ 255 ∧ s1 ≤ 255 then
        some (encode (.rpk (BitVec.ofNat 8 s0) (BitVec.ofNat 8 s1))) else none)
    ∧ (∀ b, assemble (.tdet b) = if b ≤ 255 then some (encode (.tdet (BitVec.ofNat 8 b))) else none)
    ∧ assemble .nop = some (encode .nop) ∧ assemble .enc = some (encode .enc) ∧ assemble .dec = some (encode .dec)
    ∧ assemble .capq = some (encode .capq) ∧ assemble .gpix = some (encode .gpix)

/-! The step (46 R220; 10_state R20). -/

/-- 46 R220, 10_state R20, 70_reset R311: with BUSY = 1, a step in which the core's turn comes is the core's step, whatever
word CMD_LATCH holds: when nothing is to come, when a core turn is next (it is taken off the script), and when an aligned
LMEM access in range is next (it stays in the script). The core's step with a decodable word is that command's execution.
(The script is the model's own field: log entry 4; that an empty script and a held access give the core the turn: log
entry 9.) -/
def Obligations.StepRunsDecodedCommand : Prop :=
  ∀ s : State,
    (∀ i, decode s.cmdLatch = .ok i → coreStep s = exec i s)
      ∧ (s.busy = true →
        (s.script = [] → step s = coreStep s ∧ ∀ i, decode s.cmdLatch = .ok i → step s = exec i s)
        ∧ (∀ es, s.script = .core :: es → step s = coreStep { s with script := es }
            ∧ ∀ i, decode s.cmdLatch = .ok i → step s = exec i { s with script := es })
        ∧ (∀ a es x, s.script = .host a :: es → accessAddr a = s.platform.lmemBase + x →
            ¬ AtRegWindow s.platform (accessAddr a) →
            ((accessBytes a = 1 ∧ x < s.platform.lmemBytes)
              ∨ (accessBytes a = 4 ∧ x % 4 = 0 ∧ x + 4 ≤ s.platform.lmemBytes)) →
            step s = coreStep s ∧ ∀ i, decode s.cmdLatch = .ok i → step s = exec i s))

/-- 10_state R28, 46 R220: after the acceptance that `withFetchWord` stands for (log entry 4), the next step executes the
command. -/
def Obligations.StepAfterFetchWord : Prop :=
  ∀ (s : State) (w : Nat) (i : Instr), w < 2 ^ 32 → decodeTableWord 32 w = some i →
    step (s.withFetchWord 32 w) = exec i { s with cmdLatch := BitVec.ofNat 32 w, busy := true, done := false }

/-- 60_exceptions R265: an illegal word is accepted like any other, and the core's step then records ILLEGAL_CMD (code 1)
with ERR_INFO = the word, clears BUSY and sets DONE, and changes nothing else. (The LMEM window does not lie over CMD: log
entry 8; the script is log entry 4's form of the host's and the core's steps.) -/
def Obligations.IllegalWordIsRecorded : Prop :=
  ∀ (s : State) (w : Word) (e : Illegal), decode w = .error e →
    (∀ es, s.busy = false → s.script = .host (.write (s.platform.regBase + 0x0C) 4 w) :: es →
        ¬ AtLmemWindow s.platform (s.platform.regBase + 0x0C) →
        step s = .next { s with cmdLatch := w, busy := true, done := false, script := es })
      ∧ (s.cmdLatch = w → coreStep s = .next (afterError 1 w s))
      ∧ (∀ es, s.cmdLatch = w → s.busy = true → s.script = .core :: es →
        step s = .next (afterError 1 w { s with script := es }))

/-- 60_exceptions R281, with log entry 4: an idle block to which nothing comes keeps its state. -/
def Obligations.IdleBlockKeepsState : Prop :=
  ∀ s : State, s.busy = false → s.script = [] → step s = .next s

/-! Results, one command at a time. -/

/-- 46 R221. -/
def Obligations.NopCompletes : Prop :=
  ∀ s : State, exec .nop s = .next { s with busy := false, done := true }

/-- 41 R120, R123: RES0[15:8] is the high nibble and RES0[7:0] the low nibble. -/
def Obligations.UnpkSplitsByte : Prop :=
  ∀ (b : Byte) (s : State), exec (.unpk b) s =
    .next { s with res0 := BitVec.ofNat 32 (256 * (b.toNat / 16) + b.toNat % 16), busy := false, done := true }

/-- 42 R140, R145: RES0 is the least multiple of 3 that is at least n, RES1 the padding, by n mod 3. -/
def Obligations.PadcComputesPadding : Prop :=
  ∀ (n : Count24) (s : State), exec (.padc n) s =
    .next { s with
      res0 := BitVec.ofNat 32 (3 * ((n.toNat + 2) / 3))
      res1 := if n.toNat % 3 = 1 then 2 else if n.toNat % 3 = 2 then 1 else 0
      busy := false
      done := true }

/-- 44 R181, R184: RES0 is 16 times the low nibble of the high slot, plus the low nibble of the low slot. -/
def Obligations.RpkJoinsSlots : Prop :=
  ∀ (s0 s1 : Slot) (s : State), exec (.rpk s0 s1) s =
    .next { s with res0 := BitVec.ofNat 32 (16 * (s0.toNat % 16) + s1.toNat % 16), busy := false, done := true }

/-- 45 R200, R205: RES0 and TERM_FOUND say whether the byte is 0x00. -/
def Obligations.TdetTestsTerminator : Prop :=
  ∀ (b : Byte) (s : State), exec (.tdet b) s =
    .next { s with
      res0 := if b = 0x00 then 1 else 0
      termFound := decide (b = 0x00)
      busy := false
      done := true }

/-- 42 R142, R143, R146: once its checks pass, CAPQ reports P, 3P and whether P pixels fit, whatever LMEM holds. -/
def Obligations.CapqReportsCapacity : Prop :=
  ∀ s : State, PayloadGridOk s → exec .capq s =
    .next { s with
      res0 := BitVec.ofNat 32 (requiredPixels s)
      res1 := BitVec.ofNat 32 (3 * requiredPixels s)
      capOk := decide (requiredPixels s ≤ (gridOf s).pixels)
      busy := false
      done := true }

/-- 43 R162, R163: once its checks pass on a written pixel, DPIX embeds its triple in R, G and B, advances PIX_IDX, and
changes no other register and no other byte. -/
def Obligations.DpixEmbedsTriple : Prop :=
  ∀ (t0 t1 t2 : Nibble) (s : State), PixelOk s → PixelWritten s →
    ∃ t, exec (.dpix t0 t1 t2) s = .next t
      ∧ t = { s with lmem := t.lmem, pixIdx := s.pixIdx + 1, busy := false, done := true }
      ∧ t.lmem.read ((gridOf s).addr s.pixIdx.toNat 0) =
          some ((byteOr0 s ((gridOf s).addr s.pixIdx.toNat 0) &&& 0xF0) ||| t0.setWidth 8)
      ∧ t.lmem.read ((gridOf s).addr s.pixIdx.toNat 1) =
          some ((byteOr0 s ((gridOf s).addr s.pixIdx.toNat 1) &&& 0xF0) ||| t1.setWidth 8)
      ∧ t.lmem.read ((gridOf s).addr s.pixIdx.toNat 2) =
          some ((byteOr0 s ((gridOf s).addr s.pixIdx.toNat 2) &&& 0xF0) ||| t2.setWidth 8)
      ∧ ∀ a, ¬ IsPixelChannel s a → t.lmem.read a = s.lmem.read a

/-- 43 R162, R166: once its checks pass on a written pixel, GPIX gathers the low nibbles of R, G and B into RES0 and
advances PIX_IDX; LMEM and every other register stay. -/
def Obligations.GpixGathersTriple : Prop :=
  ∀ s : State, PixelOk s → PixelWritten s → exec .gpix s =
    .next { s with
      res0 := BitVec.ofNat 32
        (65536 * ((byteOr0 s ((gridOf s).addr s.pixIdx.toNat 0)).toNat % 16)
          + 256 * ((byteOr0 s ((gridOf s).addr s.pixIdx.toNat 1)).toNat % 16)
          + (byteOr0 s ((gridOf s).addr s.pixIdx.toNat 2)).toNat % 16)
      pixIdx := s.pixIdx + 1
      busy := false
      done := true }

/-- 46 R222, R223, R225 to R227: once its checks pass and the bytes it reads are written, ENC embeds nibble 3p + c of the
padded, terminated payload in channel c of pixel p for every p < P, reports P and 3P, sets CAP_OK, and changes no other
register and no other byte. -/
def Obligations.EncEmbedsPayload : Prop :=
  ∀ s : State, PayloadGridOk s → requiredPixels s ≤ (gridOf s).pixels → PayloadWritten s →
    ChannelsWritten s (requiredPixels s) →
    ∃ t, exec .enc s = .next t
      ∧ t = { s with
          lmem := t.lmem
          res0 := BitVec.ofNat 32 (requiredPixels s)
          res1 := BitVec.ofNat 32 (3 * requiredPixels s)
          capOk := true
          busy := false
          done := true }
      ∧ (∀ p, p < requiredPixels s → ∀ c, c < 3 → t.lmem.read ((gridOf s).addr p c) =
          some ((byteOr0 s ((gridOf s).addr p c) &&& 0xF0) ||| payloadNibble s (3 * p + c)))
      ∧ ∀ a, ¬ IsChannelOf s (requiredPixels s) a → t.lmem.read a = s.lmem.read a

/-- 46 R230, R232 to R234: once its checks pass on a written grid, DEC finds the n bytes before the first 0x00 of the grid's
bytes (all of them where there is none), writes the first min(n, OUT_MAX) at OUT_BASE, reports n and that count, sets
TERM_FOUND and TRUNC, and changes no other register and no other byte. -/
def Obligations.DecRecoversBytes : Prop :=
  ∀ s : State, GridOutputOk s → ChannelsWritten s (gridOf s).pixels →
    ∃ n t, n ≤ gridByteCount s ∧ (∀ j, j < n → gridByte s j ≠ 0)
      ∧ (n < gridByteCount s → gridByte s n = 0)
      ∧ exec .dec s = .next t
      ∧ t = { s with
          lmem := t.lmem
          res0 := BitVec.ofNat 32 n
          res1 := BitVec.ofNat 32 (min n s.outMax.toNat)
          termFound := decide (n < gridByteCount s)
          trunc := decide (s.outMax.toNat < n)
          busy := false
          done := true }
      ∧ (∀ j, j < min n s.outMax.toNat → t.lmem.read (s.outBase.toNat + j) = some (gridByte s j))
      ∧ ∀ a, ¬ (s.outBase.toNat ≤ a ∧ a < s.outBase.toNat + min n s.outMax.toNat) → t.lmem.read a = s.lmem.read a

/-- 46 R236: a payload without 0x00 that fits comes back whole: ENC, then DEC with OUT_MAX at least its length, writes it at
OUT_BASE, with RES0 = RES1 = PAY_LEN, TERM_FOUND = 1 and TRUNC = 0. -/
def Obligations.EncThenDecRoundTrip : Prop :=
  ∀ s : State, PayloadGridOk s → requiredPixels s ≤ (gridOf s).pixels → RegionOk s (outputRegion s) →
    ¬ RegionsOverlap (gridOf s).region (outputRegion s) → PayloadWritten s → ChannelsWritten s (gridOf s).pixels →
    (∀ j, j < s.payLen.toNat → byteOr0 s (s.payBase.toNat + j) ≠ 0) → s.payLen.toNat ≤ s.outMax.toNat →
    ∃ s1 s2, exec .enc s = .next s1 ∧ exec .dec s1 = .next s2
      ∧ (∀ j, j < s.payLen.toNat → s2.lmem.read (s.outBase.toNat + j) = s.lmem.read (s.payBase.toNat + j))
      ∧ s2.res0 = s.payLen ∧ s2.res1 = s.payLen ∧ s2.termFound = true ∧ s2.trunc = false

/-! Errors (60_exceptions). -/

/-- 60_exceptions R262, R264, R266, R267: ENC and CAPQ report the first failing check in the order CONFIG, ADDR_RANGE 1,
ADDR_RANGE 2, OVERLAP, and an errored command changes nothing but the error record, BUSY and DONE. -/
def Obligations.EncAndCapqErrorOrder : Prop :=
  ∀ (i : Instr) (s : State), i = .enc ∨ i = .capq →
    (¬ ConfigOk s → exec i s = .next (afterError 2 (s.gridNch.setWidth 32) s))
      ∧ (ConfigOk s → ¬ RegionOk s (payloadRegion s) → exec i s = .next (afterError 3 1 s))
      ∧ (ConfigOk s → RegionOk s (payloadRegion s) → ¬ RegionOk s (gridOf s).region →
          exec i s = .next (afterError 3 2 s))
      ∧ (ConfigOk s → RegionOk s (payloadRegion s) → RegionOk s (gridOf s).region →
          RegionsOverlap (payloadRegion s) (gridOf s).region → exec i s = .next (afterError 4 0x12 s))

/-- 46 R224: a payload that needs more pixels than the grid has ends ENC with CAPACITY (code 5), ERR_INFO = P and
CAP_OK = 0; no LMEM byte is read or written, and nothing else changes. -/
def Obligations.EncCapacityError : Prop :=
  ∀ s : State, PayloadGridOk s → (gridOf s).pixels < requiredPixels s →
    exec .enc s = .next (afterError 5 (BitVec.ofNat 32 (requiredPixels s)) { s with capOk := false })

/-- 60_exceptions R262, R264, R266, R267: DEC reports the first failing check in the order CONFIG, ADDR_RANGE 2,
ADDR_RANGE 3, OVERLAP, and then changes nothing but the error record, BUSY and DONE. -/
def Obligations.DecErrorOrder : Prop :=
  ∀ s : State,
    (¬ ConfigOk s → exec .dec s = .next (afterError 2 (s.gridNch.setWidth 32) s))
      ∧ (ConfigOk s → ¬ RegionOk s (gridOf s).region → exec .dec s = .next (afterError 3 2 s))
      ∧ (ConfigOk s → RegionOk s (gridOf s).region → ¬ RegionOk s (outputRegion s) →
          exec .dec s = .next (afterError 3 3 s))
      ∧ (ConfigOk s → RegionOk s (gridOf s).region → RegionOk s (outputRegion s) →
          RegionsOverlap (gridOf s).region (outputRegion s) → exec .dec s = .next (afterError 4 0x23 s))

/-- 60_exceptions R262, R264, R266, R267: DPIX and GPIX report the first failing check in the order CONFIG, ADDR_RANGE 2,
PIX_RANGE with ERR_INFO = PIX_IDX, and then change nothing but the error record, BUSY and DONE. -/
def Obligations.PixelCommandErrorOrder : Prop :=
  ∀ (i : Instr) (s : State), (i = .gpix ∨ ∃ t0 t1 t2, i = .dpix t0 t1 t2) →
    (¬ ConfigOk s → exec i s = .next (afterError 2 (s.gridNch.setWidth 32) s))
      ∧ (ConfigOk s → ¬ RegionOk s (gridOf s).region → exec i s = .next (afterError 3 2 s))
      ∧ (ConfigOk s → RegionOk s (gridOf s).region → (gridOf s).pixels ≤ s.pixIdx.toNat →
          exec i s = .next (afterError 6 s.pixIdx s))

/-- 60_exceptions R264: a command that does not meet its conditions leaves LMEM, RES0, RES1, PIX_IDX, TERM_FOUND and TRUNC,
and CAP_OK but for ENC's CAPACITY error, which sets it to 0. -/
def Obligations.ErrorsArePrecise : Prop :=
  ∀ (i : Instr) (s t : State), ¬ CommandOk i s → exec i s = .next t →
    t.lmem = s.lmem ∧ t.res0 = s.res0 ∧ t.res1 = s.res1 ∧ t.pixIdx = s.pixIdx ∧ t.termFound = s.termFound
      ∧ t.trunc = s.trunc ∧ (t.capOk = s.capOk ∨ (i = .enc ∧ PayloadGridOk s ∧ t.capOk = false))
      ∧ t.err = true

/-- 42 R146: after a CAPQ that ends without an error from ERR = 0, CAP_OK = 1 exactly when an ENC with the same registers
does not end in error. -/
def Obligations.CapqPredictsEnc : Prop :=
  ∀ s t : State, s.err = false → exec .capq s = .next t → t.err = false →
    (t.capOk = true ↔ ∀ t', exec .enc s = .next t' → t'.err = false)

/-- 60_exceptions R263: `record_error` keeps the first cause and its information, and a later error only sets ERR_OVF; it
changes nothing else. -/
def Obligations.FirstErrorIsKept : Prop :=
  ∀ (r : Raise) (s : State),
    (s.err = false → recordError r s = { s with err := true, cause := r.cause.code, errInfo := r.info })
      ∧ (s.err = true → recordError r s = { s with errOvf := true })

/-- 60_exceptions R263, with 70_reset R300: a step of the machine that changes ERR, ERR_OVF, CAUSE or ERR_INFO records one
error, or is a host clear of STATUS, or is a reset or a power-on. -/
def Obligations.ErrorRecordWriters : Prop :=
  ∀ s t : State, step s = .next t →
    (t.err = s.err ∧ t.errOvf = s.errOvf ∧ t.cause = s.cause ∧ t.errInfo = s.errInfo)
      ∨ (∃ r, t.err = true ∧ t.errOvf = (recordError r s).errOvf ∧ t.cause = (recordError r s).cause
          ∧ t.errInfo = (recordError r s).errInfo)
      ∨ (∃ v es, s.script = .host (.write (s.platform.regBase + 0x08) 4 v) :: es)
      ∨ (∃ es, s.script = .reset :: es ∨ s.script = .powerOn :: es)

/-! Model faults and completion. -/

/-- 60_exceptions R275, 20_memory R61, R79: the only fault of a command is the read of an UNWRITTEN byte of its footprint,
and it names that byte and the command; no primitive is called outside LMEM. -/
def Obligations.OnlyUnwrittenReadsFault : Prop :=
  ∀ (i : Instr) (s : State) (f : Fault), exec i s = .fault f →
    ∃ a, mayRead i s a ∧ s.lmem.read a = none ∧ f = .unwrittenRead a i

/-- 60_exceptions R275, 46 R231, 20_memory R79: a command that meets its conditions reads its whole footprint, so an
UNWRITTEN byte anywhere in it is a model fault. -/
def Obligations.UnwrittenFootprintFaults : Prop :=
  ∀ (i : Instr) (s : State) (a : Nat), CommandOk i s → mayRead i s a → s.lmem.read a = none →
    ∃ b, exec i s = .fault (.unwrittenRead b i)

/-- 60_exceptions R260, R267: a command that meets its conditions on a written footprint completes, without recording an
error. -/
def Obligations.CommandCompletesWhenOk : Prop :=
  ∀ (i : Instr) (s : State), CommandOk i s → (∀ a, mayRead i s a → (s.lmem.read a).isSome = true) →
    ∃ t, exec i s = .next t ∧ t.busy = false ∧ t.done = true ∧ t.err = s.err ∧ t.errOvf = s.errOvf
      ∧ t.cause = s.cause ∧ t.errInfo = s.errInfo

/-- No command is refused (30_encoding R95: every legal word has a command). -/
def Obligations.NoCommandRefused : Prop :=
  ∀ (i : Instr) (s : State) (r : Refusal), exec i s ≠ .refused r

/-! Frames. -/

/-- 10_state R24, R26, R34 to R39, R41, 46 R220: no command writes CTRL, a configuration register or CMD_LATCH, and every
command ends with BUSY = 0 and DONE = 1; the model's own fields (log entries 1, 4, 5) stay too. -/
def Obligations.ConfigurationIsNeverWritten : Prop :=
  ∀ (i : Instr) (s t : State), exec i s = .next t →
    t.busy = false ∧ t.done = true ∧ t.ctrlIeDone = s.ctrlIeDone ∧ t.ctrlIeErr = s.ctrlIeErr
      ∧ t.payBase = s.payBase ∧ t.payLen = s.payLen ∧ t.gridBase = s.gridBase ∧ t.gridW = s.gridW
      ∧ t.gridH = s.gridH ∧ t.gridNch = s.gridNch ∧ t.outBase = s.outBase ∧ t.outMax = s.outMax
      ∧ t.cmdLatch = s.cmdLatch ∧ t.platform = s.platform ∧ t.script = s.script ∧ t.reads = s.reads

/-- 10_state R24, R44: the only commands that write RES0, RES1, PIX_IDX, CAP_OK, TERM_FOUND and TRUNC. -/
def Obligations.ResultAndFlagWriters : Prop :=
  ∀ (i : Instr) (s t : State), exec i s = .next t →
    (t.res0 ≠ s.res0 → i ≠ .nop ∧ ∀ t0 t1 t2, i ≠ .dpix t0 t1 t2)
      ∧ (t.res1 ≠ s.res1 → i = .enc ∨ i = .dec ∨ i = .capq ∨ ∃ n, i = .padc n)
      ∧ (t.pixIdx ≠ s.pixIdx → i = .gpix ∨ ∃ t0 t1 t2, i = .dpix t0 t1 t2)
      ∧ (t.capOk ≠ s.capOk → i = .capq ∨ i = .enc)
      ∧ (t.termFound ≠ s.termFound → i = .dec ∨ ∃ b, i = .tdet b)
      ∧ (t.trunc ≠ s.trunc → i = .dec)

/-- 20_memory R79: a command changes no LMEM byte outside its written footprint. -/
def Obligations.WriteFootprint : Prop :=
  ∀ (i : Instr) (s t : State), exec i s = .next t → ∀ a, ¬ mayWrite i s t a → t.lmem.read a = s.lmem.read a

/-- 43 R167: after a successful ENC, the high nibbles of the consumed channels, every channel 3 byte and every byte of the
pixels beyond the consumed ones are as before. -/
def Obligations.EncChannelIsolation : Prop :=
  ∀ s t : State, PayloadGridOk s → requiredPixels s ≤ (gridOf s).pixels → exec .enc s = .next t →
    (∀ p, p < requiredPixels s → ∀ c, c < 3 → ∃ old new, s.lmem.read ((gridOf s).addr p c) = some old
        ∧ t.lmem.read ((gridOf s).addr p c) = some new ∧ new.extractLsb' 4 4 = old.extractLsb' 4 4)
      ∧ ((gridOf s).nch = 4 → ∀ p, p < (gridOf s).pixels →
          t.lmem.read ((gridOf s).addr p 3) = s.lmem.read ((gridOf s).addr p 3))
      ∧ (∀ p, requiredPixels s ≤ p → p < (gridOf s).pixels → ∀ c, c < (gridOf s).nch →
          t.lmem.read ((gridOf s).addr p c) = s.lmem.read ((gridOf s).addr p c))

/-! The host's registers (10_state). -/

/-- 10_state R24, R27: STATUS as the host reads it at offset 0x08, bit by bit. -/
def Obligations.StatusReadsItsFields : Prop :=
  ∀ s : State,
    (readWindow 0x08 s).getLsbD 0 = s.busy ∧ (readWindow 0x08 s).getLsbD 1 = s.done
      ∧ (readWindow 0x08 s).getLsbD 2 = s.err ∧ (readWindow 0x08 s).getLsbD 3 = s.errOvf
      ∧ (readWindow 0x08 s).getLsbD 4 = s.capOk ∧ (readWindow 0x08 s).getLsbD 5 = s.termFound
      ∧ (readWindow 0x08 s).getLsbD 6 = s.trunc ∧ (readWindow 0x08 s).getLsbD 7 = false
      ∧ (readWindow 0x08 s).extractLsb' 8 4 = s.cause ∧ (readWindow 0x08 s).extractLsb' 12 20 = 0#20

/-- 10_state R29: a host write of v to STATUS is one step at any time, BUSY or not: bit 1 clears DONE, bit 3 clears ERR_OVF,
bit 2 clears ERR, CAUSE and ERR_INFO; every other bit is ignored and nothing else changes. (The LMEM window does not lie
over the register: log entry 8; the script is log entry 4's form of the host's steps.) -/
def Obligations.StatusWriteOneClears : Prop :=
  ∀ (v : Word) (s : State) (es : List Event),
    s.script = .host (.write (s.platform.regBase + 0x08) 4 v) :: es →
    ¬ AtLmemWindow s.platform (s.platform.regBase + 0x08) →
    step s = .next { s with
      done := if v.getLsbD 1 then false else s.done
      errOvf := if v.getLsbD 3 then false else s.errOvf
      err := if v.getLsbD 2 then false else s.err
      cause := if v.getLsbD 2 then 0 else s.cause
      errInfo := if v.getLsbD 2 then 0 else s.errInfo
      script := es }

/-- 10_state R28: a host write of w to CMD is one step: while idle it latches the word, legal or not, sets BUSY and clears
DONE; while busy the pending command stays and CMD_OVERRUN (code 7) is recorded with ERR_INFO = the word. CMD reads 0.
(The LMEM window does not lie over the register: log entry 8; the script is log entry 4's form of the host's steps.) -/
def Obligations.CmdWriteAcceptsOrOverruns : Prop :=
  ∀ (w : Word) (s : State) (es : List Event),
    s.script = .host (.write (s.platform.regBase + 0x0C) 4 w) :: es →
    ¬ AtLmemWindow s.platform (s.platform.regBase + 0x0C) →
    readWindow 0x0C s = 0
      ∧ (s.busy = false → step s = .next { s with cmdLatch := w, busy := true, done := false, script := es })
      ∧ (s.busy = true → step s = .next { s with
            err := true
            errOvf := s.errOvf || s.err
            cause := if s.err then s.cause else 7
            errInfo := if s.err then s.errInfo else w
            script := es })

/-- 10_state R24, R26, R33 to R39, 70_reset R312, R313: host writes at the offsets of the RWL registers take effect on their
implemented bits while idle and are ignored while busy; CTRL, at 0x04, takes its two bits at any time. -/
def Obligations.ConfigurationWrites : Prop :=
  ∀ (v : Word) (s : State),
    writeWindow 0x04 v s = { s with ctrlIeDone := v.getLsbD 0, ctrlIeErr := v.getLsbD 1 }
      ∧ (s.busy = true → ∀ off ∈ [0x1C, 0x20, 0x24, 0x28, 0x2C, 0x30, 0x34, 0x38, 0x3C], writeWindow off v s = s)
      ∧ (s.busy = false →
          writeWindow 0x1C v s = { s with pixIdx := v } ∧ writeWindow 0x20 v s = { s with payBase := v }
          ∧ writeWindow 0x24 v s = { s with payLen := v } ∧ writeWindow 0x28 v s = { s with gridBase := v }
          ∧ writeWindow 0x2C v s = { s with gridW := v.extractLsb' 0 16 }
          ∧ writeWindow 0x30 v s = { s with gridH := v.extractLsb' 0 16 }
          ∧ writeWindow 0x34 v s = { s with gridNch := v.extractLsb' 0 4 }
          ∧ writeWindow 0x38 v s = { s with outBase := v } ∧ writeWindow 0x3C v s = { s with outMax := v })

/-- 10_state R24 to R26, R28, R30 to R40, 70_reset R313: writes at the offsets of the RO registers and at the reserved offsets
are ignored, CMD and the reserved offsets read 0, and every other register reads at its offset, in every state, what it
holds, zero-extended; STATUS, at 0x08, is StatusReadsItsFields. -/
def Obligations.ReadOnlyAndReserved : Prop :=
  ∀ (v : Word) (s : State),
    (∀ off ∈ [0x00, 0x10, 0x14, 0x18, 0x40], writeWindow off v s = s)
      ∧ (∀ off, 0x44 ≤ off → off ≤ 0xFC → writeWindow off v s = s ∧ readWindow off s = 0)
      ∧ readWindow 0x0C s = 0 ∧ readWindow 0x00 s = 0x4E550001
      ∧ readWindow 0x40 s = BitVec.ofNat 32 s.platform.lmemBytes
      ∧ readWindow 0x10 s = s.errInfo ∧ readWindow 0x14 s = s.res0 ∧ readWindow 0x18 s = s.res1
      ∧ (readWindow 0x04 s).getLsbD 0 = s.ctrlIeDone ∧ (readWindow 0x04 s).getLsbD 1 = s.ctrlIeErr
      ∧ (readWindow 0x04 s).extractLsb' 2 30 = 0#30
      ∧ readWindow 0x1C s = s.pixIdx ∧ readWindow 0x20 s = s.payBase ∧ readWindow 0x24 s = s.payLen
      ∧ readWindow 0x28 s = s.gridBase ∧ readWindow 0x2C s = 0#16 ++ s.gridW ∧ readWindow 0x30 s = 0#16 ++ s.gridH
      ∧ readWindow 0x34 s = 0#28 ++ s.gridNch ∧ readWindow 0x38 s = s.outBase ∧ readWindow 0x3C s = s.outMax

/-- 20_memory R63, 70_reset R312: a 32-bit host access at a multiple of 4 in the register window (and outside the LMEM
window: log entry 8) is a step at any time, BUSY or not; a read returns the register, into the model's own field `reads`
(log entry 5), and changes nothing else. -/
def Obligations.HostRegisterAccess : Prop :=
  ∀ (s : State) (off : Nat) (v : Word) (es : List Event), off < 256 → off % 4 = 0 →
    ¬ AtLmemWindow s.platform (s.platform.regBase + off) →
    (s.script = .host (.read (s.platform.regBase + off) 4) :: es →
        step s = .next { s with script := es, reads := readWindow off s :: s.reads })
      ∧ (s.script = .host (.write (s.platform.regBase + off) 4 v) :: es →
        step s = .next (writeWindow off v { s with script := es }))

/-! The host's LMEM accesses (20_memory R64; 70_reset R311, R312). -/

/-- 20_memory R64, R69: while idle, a 4-byte aligned host write in range stores the four bytes little-endian, changes nothing
else, and a 4-byte read then returns the word. (The script and `reads` are the model's own: log entries 4 and 5.) -/
def Obligations.HostWordIsLittleEndian : Prop :=
  ∀ (s : State) (a : Nat) (v : Word) (es : List Event), s.busy = false → a % 4 = 0 → a + 4 ≤ s.platform.lmemBytes →
    ¬ AtRegWindow s.platform (s.platform.lmemBase + a) →
    s.script = .host (.write (s.platform.lmemBase + a) 4 v) :: es →
    ∃ t, step s = .next t ∧ t = { s with script := es, lmem := t.lmem }
      ∧ t.lmem.read a = some (v.extractLsb' 0 8) ∧ t.lmem.read (a + 1) = some (v.extractLsb' 8 8)
      ∧ t.lmem.read (a + 2) = some (v.extractLsb' 16 8) ∧ t.lmem.read (a + 3) = some (v.extractLsb' 24 8)
      ∧ (∀ x, ¬ (a ≤ x ∧ x < a + 4) → t.lmem.read x = s.lmem.read x)
      ∧ ∀ es', step { t with script := .host (.read (s.platform.lmemBase + a) 4) :: es' } =
          .next { t with script := es', reads := v :: t.reads }

/-- 20_memory R64: while idle, a 1-byte host write in range stores v[7:0] and nothing else, and a 1-byte read of a written
byte returns it, zero-extended. (The script and `reads` are the model's own: log entries 4 and 5.) -/
def Obligations.HostByteAccess : Prop :=
  ∀ (s : State) (a : Nat) (v : Word) (es : List Event), s.busy = false → a < s.platform.lmemBytes →
    ¬ AtRegWindow s.platform (s.platform.lmemBase + a) →
    (s.script = .host (.write (s.platform.lmemBase + a) 1 v) :: es →
        ∃ t, step s = .next t ∧ t = { s with script := es, lmem := t.lmem }
          ∧ t.lmem.read a = some (v.extractLsb' 0 8) ∧ ∀ x, x ≠ a → t.lmem.read x = s.lmem.read x)
      ∧ (∀ b, s.script = .host (.read (s.platform.lmemBase + a) 1) :: es → s.lmem.read a = some b →
        step s = .next { s with script := es, reads := b.setWidth 32 :: s.reads })

/-- 20_memory R62, R64, 60_exceptions R275: while idle, a step with a host read that would return an UNWRITTEN byte is a model
fault, at the first such byte. (The script is log entry 4's form of the host's steps.) -/
def Obligations.HostUnwrittenReadFaults : Prop :=
  ∀ (s : State) (a : Nat) (es : List Event), s.busy = false → ¬ AtRegWindow s.platform (s.platform.lmemBase + a) →
    (s.script = .host (.read (s.platform.lmemBase + a) 1) :: es → a < s.platform.lmemBytes → s.lmem.read a = none →
        step s = .fault (.hostUnwrittenRead a))
      ∧ (∀ k, s.script = .host (.read (s.platform.lmemBase + a) 4) :: es → a % 4 = 0 → a + 4 ≤ s.platform.lmemBytes →
          k < 4 → s.lmem.read (a + k) = none → (∀ j, j < k → (s.lmem.read (a + j)).isSome = true) →
          step s = .fault (.hostUnwrittenRead (a + k)))

/-- 20_memory R63, R64, R70, 70_reset R312: a host access that breaks a `requires` clause, of either window, is refused at any
time, BUSY or not; the spec gives it no step. An address in neither window is refused too (log entry 8). -/
def Obligations.BusErrorsAreRefused : Prop :=
  ∀ (s : State) (access : HostAccess) (es : List Event), s.script = .host access :: es →
    (∀ off, accessAddr access = s.platform.regBase + off → off < 256 →
        ¬ AtLmemWindow s.platform (accessAddr access) → (accessBytes access ≠ 4 ∨ off % 4 ≠ 0) →
        step s = .refused (.registerBusError off (accessBytes access)))
      ∧ (∀ x, accessAddr access = s.platform.lmemBase + x → x < s.platform.lmemBytes →
        ¬ AtRegWindow s.platform (accessAddr access) →
        ((accessBytes access ≠ 1 ∧ accessBytes access ≠ 4)
          ∨ (accessBytes access = 4 ∧ (x % 4 ≠ 0 ∨ s.platform.lmemBytes < x + 4))) →
        step s = .refused (.lmemBusError x (accessBytes access)))
      ∧ (¬ AtRegWindow s.platform (accessAddr access) → ¬ AtLmemWindow s.platform (accessAddr access) →
        step s = .refused (.addressOutsideWindows (accessAddr access)))

/-- 20_memory R64, 70_reset R311, R312: an LMEM access of 1 byte in range, or of 4 aligned bytes in range, has no step of its
own while BUSY = 1: the step is the core's, and after it BUSY = 0, so the access is no longer held. That the core's step
comes exactly when such an access is next is the model's choice of turn (log entry 9), and that the access stays first in
line is the model's form of the host's steps (log entry 4). -/
def Obligations.HeldAccessWaitsForCore : Prop :=
  ∀ (s : State) (a : HostAccess) (es : List Event) (x : Nat), s.script = .host a :: es → s.busy = true →
    accessAddr a = s.platform.lmemBase + x → ¬ AtRegWindow s.platform (accessAddr a) →
    ((accessBytes a = 1 ∧ x < s.platform.lmemBytes)
      ∨ (accessBytes a = 4 ∧ x % 4 = 0 ∧ x + 4 ≤ s.platform.lmemBytes)) →
    step s = coreStep s ∧ ∀ t, step s = .next t → t.script = s.script ∧ t.busy = false

/-! Reset and interrupt. -/

/-- 70_reset R300, R301, 10_state R24: the reset input gives every register its reset value, discards a pending command, keeps
every LMEM byte and deasserts IRQ; power-on leaves every LMEM byte UNWRITTEN as well. CMD_LATCH's 0 is log entry 2's choice
and is not part of the statement; that the platform and the rest of the script stay is log entries 1 and 4. -/
def Obligations.ResetLeavesRegisterValues : Prop :=
  ∀ (s : State) (e : Event) (es : List Event), s.script = e :: es → (e = .reset ∨ e = .powerOn) →
    ∃ t, step s = .next t ∧ readWindow 0x04 t = 0 ∧ readWindow 0x08 t = 0 ∧ t.errInfo = 0 ∧ t.res0 = 0 ∧ t.res1 = 0
      ∧ t.pixIdx = 0 ∧ t.payBase = 0 ∧ t.payLen = 0 ∧ t.gridBase = 0 ∧ t.gridW = 0 ∧ t.gridH = 0 ∧ t.gridNch = 4
      ∧ t.outBase = 0 ∧ t.outMax = 0 ∧ irq t = false ∧ t.platform = s.platform ∧ t.script = es
      ∧ (e = .reset → t.lmem = s.lmem) ∧ (e = .powerOn → ∀ a, t.lmem.read a = none)

/-- 10_state R24, R62 of 20_memory, 70_reset R300: the state after power-on, as the host reads it. -/
def Obligations.ResetStateReads : Prop :=
  readWindow 0x00 State.reset = 0x4E550001 ∧ readWindow 0x34 State.reset = 4
    ∧ (∀ off ∈ [0x04, 0x08, 0x0C, 0x10, 0x14, 0x18, 0x1C, 0x20, 0x24, 0x28, 0x2C, 0x30, 0x38, 0x3C],
        readWindow off State.reset = 0)
    ∧ (∀ a, State.reset.lmem.read a = none) ∧ irq State.reset = false

/-- 60_exceptions R270, 46 R220: IRQ is DONE under IE_DONE or ERR under IE_ERR, so the end of any command raises it when
IE_DONE is set, and a command that ends with ERR set raises it when IE_ERR is set. -/
def Obligations.IrqFollowsCompletion : Prop :=
  ∀ s : State, (irq s = true ↔ (s.done = true ∧ s.ctrlIeDone = true) ∨ (s.err = true ∧ s.ctrlIeErr = true))
    ∧ ∀ t, coreStep s = .next t →
      (s.ctrlIeDone = true → irq t = true) ∧ (s.ctrlIeErr = true → t.err = true → irq t = true)

/-! The invariant. -/

/-- 00_scope R5, 10_state R27, R28, R45, 60_exceptions R262, R263: every step keeps the invariant. -/
def Obligations.StepKeepsInv : Prop := ∀ s t : State, BlockInv s → step s = .next t → BlockInv t

/-- 10_state R24, 20_memory R62: the invariant holds after power-on. -/
def Obligations.ResetInv : Prop := BlockInv State.reset

/-! The unit functions. -/

/-- 42 R140: the padding table, and that n + Pad(n) is the least multiple of 3 that is at least n. -/
def Obligations.PadTable : Prop :=
  ∀ n : Nat, (n % 3 = 0 → padCount n = 0) ∧ (n % 3 = 1 → padCount n = 2) ∧ (n % 3 = 2 → padCount n = 1)
    ∧ padCount n = (3 - n % 3) % 3 ∧ (n + padCount n) % 3 = 0 ∧ n + padCount n = 3 * ((n + 3 - 1) / 3)
    ∧ ∀ m, n ≤ m → m % 3 = 0 → n + padCount n ≤ m

/-- 42 R142, R144: the closed form of ReqPixels, and MaxPayload as the greatest payload that fits. -/
def Obligations.CapacityClosedForms : Prop :=
  (∀ k : Nat, reqPixels (3 * k) = 2 * k + 1 ∧ reqPixels (3 * k + 1) = 2 * k + 2 ∧ reqPixels (3 * k + 2) = 2 * k + 2)
    ∧ (∀ len : Nat, reqPixels len = (2 * (len + 1) + 3 - 1) / 3 ∧ 1 ≤ reqPixels len)
    ∧ ∀ len w h : Nat, capacityOk len w h = true ↔ ∃ m, maxPayload (w * h) = some m ∧ len ≤ m

/-- 20_memory R67, R68: the two region tests, in exact arithmetic; two regions overlap exactly when they share a byte. -/
def Obligations.RegionTests : Prop :=
  ∀ (n : Nat) (r q : Region), (r.inRange n = true ↔ ∀ a, r.contains a = true → a < n)
    ∧ (r.overlaps q = true ↔ ∃ a, r.contains a = true ∧ q.contains a = true)

/-- 43 R160: row-major indexing and its inverse. -/
def Obligations.RowMajorIndexing : Prop :=
  ∀ g : Grid, (∀ x y, x < g.width → y < g.height → g.pixelIndex x y < g.pixels
      ∧ g.column (g.pixelIndex x y) = x ∧ g.row (g.pixelIndex x y) = y)
    ∧ (∀ p, p < g.pixels → g.column p < g.width ∧ g.row p < g.height ∧ g.pixelIndex (g.column p) (g.row p) = p)

/-- 44 R183: repacking undoes unpacking, for a byte, for a payload, and at the head of any padded payload. -/
def Obligations.RepackInvertsUnpack : Prop :=
  (∀ b : Byte, ∃ hi lo, unpack b = [hi, lo] ∧ repack hi lo = b)
    ∧ (∀ u : List Byte, bytesOf (nibbleSeq u) = u ++ [0x00])
    ∧ (∀ u : List Byte, bytesOf (padSeq (nibbleSeq u)) = u ++ [0x00]
        ∨ bytesOf (padSeq (nibbleSeq u)) = u ++ [0x00, 0x00])

/-- 45 R202: the properties of Terminate. -/
def Obligations.TerminateProperties : Prop :=
  ∀ bs : List Byte, 0x00 ∉ (terminate bs).1 ∧ (terminate bs).1.length ≤ bs.length
    ∧ ((terminate bs).2 = true ↔ (terminate bs).1.length < bs.length)
    ∧ ∀ cs : List Byte, cs.take ((terminate bs).1.length + 1) = bs.take ((terminate bs).1.length + 1) →
        terminate cs = terminate bs

/-- 45 R203: a payload whose first zero byte is at k decodes to its first k bytes. -/
def Obligations.InternalZeroTruncates : Prop :=
  ∀ (u : List Byte) (k : Nat), u[k]? = some 0x00 → (∀ j, j < k → u[j]? ≠ some 0x00) →
    terminate (bytesOf (nibbleSeq u)) = (u.take k, true)
end

