-- ==== Sys2Proof/Laws/Encoding.lean ====
section
/-! SUPPORT. The opcode map read as fields: a row selects a word exactly when the word's fixed bits are the row's. -/

namespace Sys2Proof

/-- Masking off the low k bits and comparing is comparing the high n bits. -/
theorem and_mask_eq_iff {k n : Nat} (hk : k + n = 32) (w pat : Word) (hpat : ∀ j, j < k → pat.getLsbD j = false) :
    w &&& (BitVec.allOnes 32 <<< k) = pat ↔ w.extractLsb' k n = pat.extractLsb' k n := by
  constructor
  · intro h
    subst h
    apply BitVec.eq_of_getLsbD_eq
    intro j hj
    simp only [BitVec.getLsbD_extractLsb', hj, decide_true, Bool.true_and, BitVec.getLsbD_and,
      BitVec.getLsbD_shiftLeft, BitVec.getLsbD_allOnes]
    have h1 : k + j < 32 := by omega
    simp [h1]
    omega
  · intro h
    apply BitVec.eq_of_getLsbD_eq
    intro j hj
    by_cases hjk : j < k
    · simp only [hpat j hjk, BitVec.getLsbD_and, BitVec.getLsbD_shiftLeft, hjk]
      simp
    · have hj' := congrArg (fun x => BitVec.getLsbD x (j - k)) h
      simp only [BitVec.getLsbD_extractLsb', show j - k < n by omega, decide_true, Bool.true_and,
        show k + (j - k) = j by omega] at hj'
      have h2 : j - k < 32 := by omega
      simp only [BitVec.getLsbD_and, BitVec.getLsbD_shiftLeft, BitVec.getLsbD_allOnes, hj', hj, hjk, h2, decide_true,
        decide_false, Bool.not_false, Bool.and_true]

/-- Which fixed bits each row of the opcode map compares, in the table's order (30_encoding R94). -/
theorem opcodeMap_selects (w : Word) :
    opcodeMap.map (fun r => r.selects w) =
      [ decide (w.extractLsb' 0 32 = 0x00000000#32), decide (w.extractLsb' 0 32 = 0x10000000#32),
        decide (w.extractLsb' 0 32 = 0x20000000#32), decide (w.extractLsb' 0 32 = 0x30000000#32),
        decide (w.extractLsb' 8 24 = 0x400000#24), decide (w.extractLsb' 24 8 = 0x50#8),
        decide (w.extractLsb' 12 20 = 0x60000#20), decide (w.extractLsb' 0 32 = 0x70000000#32),
        decide (w.extractLsb' 16 16 = 0x8000#16), decide (w.extractLsb' 8 24 = 0x900000#24) ] := by
  have key : ∀ k n, k + n = 32 → ∀ mask pat : Word, mask = BitVec.allOnes 32 <<< k →
      (∀ j, j < k → pat.getLsbD j = false) → ∀ f : BitVec n, pat.extractLsb' k n = f →
      (w &&& mask == pat) = decide (w.extractLsb' k n = f) := by
    intro k n hk mask pat hm hp f hf
    subst hm hf
    rw [Bool.eq_iff_iff]
    simpa using and_mask_eq_iff hk w pat hp
  simp only [opcodeMap, List.map_cons, List.map_nil, OpcodeRow.selects]
  rw [key 0 32 rfl 0xFFFFFFFF 0x00000000 (by decide) (by decide) 0x00000000#32 (by decide),
    key 0 32 rfl 0xFFFFFFFF 0x10000000 (by decide) (by decide) 0x10000000#32 (by decide),
    key 0 32 rfl 0xFFFFFFFF 0x20000000 (by decide) (by decide) 0x20000000#32 (by decide),
    key 0 32 rfl 0xFFFFFFFF 0x30000000 (by decide) (by decide) 0x30000000#32 (by decide),
    key 8 24 rfl 0xFFFFFF00 0x40000000 (by decide) (by decide) 0x400000#24 (by decide),
    key 24 8 rfl 0xFF000000 0x50000000 (by decide) (by decide) 0x50#8 (by decide),
    key 12 20 rfl 0xFFFFF000 0x60000000 (by decide) (by decide) 0x60000#20 (by decide),
    key 0 32 rfl 0xFFFFFFFF 0x70000000 (by decide) (by decide) 0x70000000#32 (by decide),
    key 16 16 rfl 0xFFFF0000 0x80000000 (by decide) (by decide) 0x8000#16 (by decide),
    key 8 24 rfl 0xFFFFFF00 0x90000000 (by decide) (by decide) 0x900000#24 (by decide)]

end Sys2Proof
end

