-- ==== Sys2Proof/Laws/Memory.lean ====
section
/-! SUPPORT. The laws of LMEM as a list of cells: a read after a write, the canonical form, the bound. -/

namespace Sys2Proof.Machine

/-- A byte just written reads back. -/
@[simp] theorem Memory.read_write_same (m : Memory) (a : Nat) (b : Byte) : (m.write a b).read a = some b := by
  induction m with
  | nil => simp [Memory.write, Memory.read]
  | cons c m ih =>
    obtain ⟨k, v⟩ := c
    unfold Memory.write
    split
    · simp [Memory.read]
    · split
      · simp [Memory.read]
      · rename_i _ hne
        simp [Memory.read, Ne.symm hne, ih]

/-- A write leaves every other byte as it was. -/
theorem Memory.read_write_other (m : Memory) {a a' : Nat} (b : Byte) (h : a' ≠ a) :
    (m.write a b).read a' = m.read a' := by
  induction m with
  | nil => simp [Memory.write, Memory.read, Ne.symm h]
  | cons c m ih =>
    obtain ⟨k, v⟩ := c
    unfold Memory.write
    split
    · simp [Memory.read, Ne.symm h]
    · split
      · rename_i _ heq
        simp [Memory.read, ← heq, Ne.symm h]
      · simp [Memory.read, ih]

/-- One byte read after one byte written. -/
theorem Memory.read_write (m : Memory) (a a' : Nat) (b : Byte) :
    (m.write a b).read a' = if a' = a then some b else m.read a' := by
  split
  · subst_vars; simp
  · exact Memory.read_write_other m b ‹_›

/-- The canonical form of a non-empty memory: its tail's, and every later address above the first. -/
theorem Memory.wf_cons (c : Host.Cell) (m : Memory) :
    Memory.wf (c :: m) = true ↔ (∀ d ∈ m, c.1 < d.1) ∧ Memory.wf m = true := by
  induction m generalizing c with
  | nil => simp [Memory.wf]
  | cons d m ih =>
    simp only [Memory.wf, Bool.and_eq_true, decide_eq_true_eq, List.mem_cons, forall_eq_or_imp]
    constructor
    · rintro ⟨h, hw⟩
      exact ⟨⟨h, fun e he => lt_trans h (((ih d).1 hw).1 e he)⟩, hw⟩
    · rintro ⟨⟨h, _⟩, hw⟩
      exact ⟨h, hw⟩

/-- Every entry after a write is the written one or an old one. -/
theorem Memory.mem_write {m : Memory} {a : Nat} {b : Byte} {c : Host.Cell} (h : c ∈ m.write a b) :
    c = (a, b) ∨ c ∈ m := by
  induction m with
  | nil => simpa [Memory.write] using h
  | cons d m ih =>
    obtain ⟨k, v⟩ := d
    unfold Memory.write at h
    split at h
    · simpa using h
    · split at h
      · rcases List.mem_cons.1 h with h | h
        · exact .inl h
        · exact .inr (List.mem_cons_of_mem _ h)
      · rcases List.mem_cons.1 h with h | h
        · exact .inr (h ▸ List.mem_cons_self ..)
        · exact (ih h).imp_right (List.mem_cons_of_mem _)

/-- A write keeps the canonical form. -/
theorem Memory.write_wf {m : Memory} (a : Nat) (b : Byte) (h : m.wf = true) : (m.write a b).wf = true := by
  induction m with
  | nil => rfl
  | cons c m ih =>
    obtain ⟨k, v⟩ := c
    obtain ⟨hlt, hw⟩ := (Memory.wf_cons _ _).1 h
    unfold Memory.write
    split
    · rename_i hak
      refine (Memory.wf_cons _ _).2 ⟨fun d hd => ?_, h⟩
      rcases List.mem_cons.1 hd with rfl | hd
      · exact hak
      · exact lt_trans hak (hlt d hd)
    · split
      · rename_i heq
        subst heq
        exact (Memory.wf_cons _ _).2 ⟨hlt, hw⟩
      · refine (Memory.wf_cons _ _).2 ⟨fun d hd => ?_, ih hw⟩
        rcases Memory.mem_write hd with rfl | hd
        · show k < a
          omega
        · exact hlt d hd

/-- A write inside LMEM keeps every entry inside LMEM. -/
theorem Memory.write_within {m : Memory} {n a : Nat} (b : Byte) (h : m.within n = true) (ha : a < n) :
    (m.write a b).within n = true := by
  simp only [Memory.within, List.all_eq_true, decide_eq_true_eq] at h ⊢
  intro c hc
  rcases Memory.mem_write hc with rfl | hc
  · exact ha
  · exact h c hc

/-- The memory at power-on has the canonical form. -/
theorem State.reset_lmem_wf : State.reset.lmem.wf = true := rfl

end Sys2Proof.Machine
end

