-- ==== Sys2Proof/Laws/State.lean ====
section
/-! SUPPORT. One lemma per field per update of the state: what each setter writes, and that it leaves the rest. -/

namespace Sys2Proof.Machine

@[simp] theorem setLmem_ctrlIeDone (m : Memory) (s : State) : (setLmem m s).ctrlIeDone = s.ctrlIeDone := rfl
@[simp] theorem setLmem_ctrlIeErr (m : Memory) (s : State) : (setLmem m s).ctrlIeErr = s.ctrlIeErr := rfl
@[simp] theorem setLmem_busy (m : Memory) (s : State) : (setLmem m s).busy = s.busy := rfl
@[simp] theorem setLmem_done (m : Memory) (s : State) : (setLmem m s).done = s.done := rfl
@[simp] theorem setLmem_err (m : Memory) (s : State) : (setLmem m s).err = s.err := rfl
@[simp] theorem setLmem_errOvf (m : Memory) (s : State) : (setLmem m s).errOvf = s.errOvf := rfl
@[simp] theorem setLmem_capOk (m : Memory) (s : State) : (setLmem m s).capOk = s.capOk := rfl
@[simp] theorem setLmem_termFound (m : Memory) (s : State) : (setLmem m s).termFound = s.termFound := rfl
@[simp] theorem setLmem_trunc (m : Memory) (s : State) : (setLmem m s).trunc = s.trunc := rfl
@[simp] theorem setLmem_cause (m : Memory) (s : State) : (setLmem m s).cause = s.cause := rfl
@[simp] theorem setLmem_errInfo (m : Memory) (s : State) : (setLmem m s).errInfo = s.errInfo := rfl
@[simp] theorem setLmem_res0 (m : Memory) (s : State) : (setLmem m s).res0 = s.res0 := rfl
@[simp] theorem setLmem_res1 (m : Memory) (s : State) : (setLmem m s).res1 = s.res1 := rfl
@[simp] theorem setLmem_pixIdx (m : Memory) (s : State) : (setLmem m s).pixIdx = s.pixIdx := rfl
@[simp] theorem setLmem_payBase (m : Memory) (s : State) : (setLmem m s).payBase = s.payBase := rfl
@[simp] theorem setLmem_payLen (m : Memory) (s : State) : (setLmem m s).payLen = s.payLen := rfl
@[simp] theorem setLmem_gridBase (m : Memory) (s : State) : (setLmem m s).gridBase = s.gridBase := rfl
@[simp] theorem setLmem_outBase (m : Memory) (s : State) : (setLmem m s).outBase = s.outBase := rfl
@[simp] theorem setLmem_outMax (m : Memory) (s : State) : (setLmem m s).outMax = s.outMax := rfl
@[simp] theorem setLmem_gridW (m : Memory) (s : State) : (setLmem m s).gridW = s.gridW := rfl
@[simp] theorem setLmem_gridH (m : Memory) (s : State) : (setLmem m s).gridH = s.gridH := rfl
@[simp] theorem setLmem_gridNch (m : Memory) (s : State) : (setLmem m s).gridNch = s.gridNch := rfl
@[simp] theorem setLmem_cmdLatch (m : Memory) (s : State) : (setLmem m s).cmdLatch = s.cmdLatch := rfl
@[simp] theorem setLmem_lmem (m : Memory) (s : State) : (setLmem m s).lmem = m := rfl
@[simp] theorem setLmem_platform (m : Memory) (s : State) : (setLmem m s).platform = s.platform := rfl
@[simp] theorem setLmem_script (m : Memory) (s : State) : (setLmem m s).script = s.script := rfl
@[simp] theorem setLmem_reads (m : Memory) (s : State) : (setLmem m s).reads = s.reads := rfl

@[simp] theorem writeRes0_ctrlIeDone (v : Nat) (s : State) : (writeRes0 v s).ctrlIeDone = s.ctrlIeDone := rfl
@[simp] theorem writeRes0_ctrlIeErr (v : Nat) (s : State) : (writeRes0 v s).ctrlIeErr = s.ctrlIeErr := rfl
@[simp] theorem writeRes0_busy (v : Nat) (s : State) : (writeRes0 v s).busy = s.busy := rfl
@[simp] theorem writeRes0_done (v : Nat) (s : State) : (writeRes0 v s).done = s.done := rfl
@[simp] theorem writeRes0_err (v : Nat) (s : State) : (writeRes0 v s).err = s.err := rfl
@[simp] theorem writeRes0_errOvf (v : Nat) (s : State) : (writeRes0 v s).errOvf = s.errOvf := rfl
@[simp] theorem writeRes0_capOk (v : Nat) (s : State) : (writeRes0 v s).capOk = s.capOk := rfl
@[simp] theorem writeRes0_termFound (v : Nat) (s : State) : (writeRes0 v s).termFound = s.termFound := rfl
@[simp] theorem writeRes0_trunc (v : Nat) (s : State) : (writeRes0 v s).trunc = s.trunc := rfl
@[simp] theorem writeRes0_cause (v : Nat) (s : State) : (writeRes0 v s).cause = s.cause := rfl
@[simp] theorem writeRes0_errInfo (v : Nat) (s : State) : (writeRes0 v s).errInfo = s.errInfo := rfl
@[simp] theorem writeRes0_res0 (v : Nat) (s : State) : (writeRes0 v s).res0 = BitVec.ofNat 32 v := rfl
@[simp] theorem writeRes0_res1 (v : Nat) (s : State) : (writeRes0 v s).res1 = s.res1 := rfl
@[simp] theorem writeRes0_pixIdx (v : Nat) (s : State) : (writeRes0 v s).pixIdx = s.pixIdx := rfl
@[simp] theorem writeRes0_payBase (v : Nat) (s : State) : (writeRes0 v s).payBase = s.payBase := rfl
@[simp] theorem writeRes0_payLen (v : Nat) (s : State) : (writeRes0 v s).payLen = s.payLen := rfl
@[simp] theorem writeRes0_gridBase (v : Nat) (s : State) : (writeRes0 v s).gridBase = s.gridBase := rfl
@[simp] theorem writeRes0_outBase (v : Nat) (s : State) : (writeRes0 v s).outBase = s.outBase := rfl
@[simp] theorem writeRes0_outMax (v : Nat) (s : State) : (writeRes0 v s).outMax = s.outMax := rfl
@[simp] theorem writeRes0_gridW (v : Nat) (s : State) : (writeRes0 v s).gridW = s.gridW := rfl
@[simp] theorem writeRes0_gridH (v : Nat) (s : State) : (writeRes0 v s).gridH = s.gridH := rfl
@[simp] theorem writeRes0_gridNch (v : Nat) (s : State) : (writeRes0 v s).gridNch = s.gridNch := rfl
@[simp] theorem writeRes0_cmdLatch (v : Nat) (s : State) : (writeRes0 v s).cmdLatch = s.cmdLatch := rfl
@[simp] theorem writeRes0_lmem (v : Nat) (s : State) : (writeRes0 v s).lmem = s.lmem := rfl
@[simp] theorem writeRes0_platform (v : Nat) (s : State) : (writeRes0 v s).platform = s.platform := rfl
@[simp] theorem writeRes0_script (v : Nat) (s : State) : (writeRes0 v s).script = s.script := rfl
@[simp] theorem writeRes0_reads (v : Nat) (s : State) : (writeRes0 v s).reads = s.reads := rfl

@[simp] theorem writeRes1_ctrlIeDone (v : Nat) (s : State) : (writeRes1 v s).ctrlIeDone = s.ctrlIeDone := rfl
@[simp] theorem writeRes1_ctrlIeErr (v : Nat) (s : State) : (writeRes1 v s).ctrlIeErr = s.ctrlIeErr := rfl
@[simp] theorem writeRes1_busy (v : Nat) (s : State) : (writeRes1 v s).busy = s.busy := rfl
@[simp] theorem writeRes1_done (v : Nat) (s : State) : (writeRes1 v s).done = s.done := rfl
@[simp] theorem writeRes1_err (v : Nat) (s : State) : (writeRes1 v s).err = s.err := rfl
@[simp] theorem writeRes1_errOvf (v : Nat) (s : State) : (writeRes1 v s).errOvf = s.errOvf := rfl
@[simp] theorem writeRes1_capOk (v : Nat) (s : State) : (writeRes1 v s).capOk = s.capOk := rfl
@[simp] theorem writeRes1_termFound (v : Nat) (s : State) : (writeRes1 v s).termFound = s.termFound := rfl
@[simp] theorem writeRes1_trunc (v : Nat) (s : State) : (writeRes1 v s).trunc = s.trunc := rfl
@[simp] theorem writeRes1_cause (v : Nat) (s : State) : (writeRes1 v s).cause = s.cause := rfl
@[simp] theorem writeRes1_errInfo (v : Nat) (s : State) : (writeRes1 v s).errInfo = s.errInfo := rfl
@[simp] theorem writeRes1_res0 (v : Nat) (s : State) : (writeRes1 v s).res0 = s.res0 := rfl
@[simp] theorem writeRes1_res1 (v : Nat) (s : State) : (writeRes1 v s).res1 = BitVec.ofNat 32 v := rfl
@[simp] theorem writeRes1_pixIdx (v : Nat) (s : State) : (writeRes1 v s).pixIdx = s.pixIdx := rfl
@[simp] theorem writeRes1_payBase (v : Nat) (s : State) : (writeRes1 v s).payBase = s.payBase := rfl
@[simp] theorem writeRes1_payLen (v : Nat) (s : State) : (writeRes1 v s).payLen = s.payLen := rfl
@[simp] theorem writeRes1_gridBase (v : Nat) (s : State) : (writeRes1 v s).gridBase = s.gridBase := rfl
@[simp] theorem writeRes1_outBase (v : Nat) (s : State) : (writeRes1 v s).outBase = s.outBase := rfl
@[simp] theorem writeRes1_outMax (v : Nat) (s : State) : (writeRes1 v s).outMax = s.outMax := rfl
@[simp] theorem writeRes1_gridW (v : Nat) (s : State) : (writeRes1 v s).gridW = s.gridW := rfl
@[simp] theorem writeRes1_gridH (v : Nat) (s : State) : (writeRes1 v s).gridH = s.gridH := rfl
@[simp] theorem writeRes1_gridNch (v : Nat) (s : State) : (writeRes1 v s).gridNch = s.gridNch := rfl
@[simp] theorem writeRes1_cmdLatch (v : Nat) (s : State) : (writeRes1 v s).cmdLatch = s.cmdLatch := rfl
@[simp] theorem writeRes1_lmem (v : Nat) (s : State) : (writeRes1 v s).lmem = s.lmem := rfl
@[simp] theorem writeRes1_platform (v : Nat) (s : State) : (writeRes1 v s).platform = s.platform := rfl
@[simp] theorem writeRes1_script (v : Nat) (s : State) : (writeRes1 v s).script = s.script := rfl
@[simp] theorem writeRes1_reads (v : Nat) (s : State) : (writeRes1 v s).reads = s.reads := rfl

@[simp] theorem writePixIdx_ctrlIeDone (v : Nat) (s : State) : (writePixIdx v s).ctrlIeDone = s.ctrlIeDone := rfl
@[simp] theorem writePixIdx_ctrlIeErr (v : Nat) (s : State) : (writePixIdx v s).ctrlIeErr = s.ctrlIeErr := rfl
@[simp] theorem writePixIdx_busy (v : Nat) (s : State) : (writePixIdx v s).busy = s.busy := rfl
@[simp] theorem writePixIdx_done (v : Nat) (s : State) : (writePixIdx v s).done = s.done := rfl
@[simp] theorem writePixIdx_err (v : Nat) (s : State) : (writePixIdx v s).err = s.err := rfl
@[simp] theorem writePixIdx_errOvf (v : Nat) (s : State) : (writePixIdx v s).errOvf = s.errOvf := rfl
@[simp] theorem writePixIdx_capOk (v : Nat) (s : State) : (writePixIdx v s).capOk = s.capOk := rfl
@[simp] theorem writePixIdx_termFound (v : Nat) (s : State) : (writePixIdx v s).termFound = s.termFound := rfl
@[simp] theorem writePixIdx_trunc (v : Nat) (s : State) : (writePixIdx v s).trunc = s.trunc := rfl
@[simp] theorem writePixIdx_cause (v : Nat) (s : State) : (writePixIdx v s).cause = s.cause := rfl
@[simp] theorem writePixIdx_errInfo (v : Nat) (s : State) : (writePixIdx v s).errInfo = s.errInfo := rfl
@[simp] theorem writePixIdx_res0 (v : Nat) (s : State) : (writePixIdx v s).res0 = s.res0 := rfl
@[simp] theorem writePixIdx_res1 (v : Nat) (s : State) : (writePixIdx v s).res1 = s.res1 := rfl
@[simp] theorem writePixIdx_pixIdx (v : Nat) (s : State) : (writePixIdx v s).pixIdx = BitVec.ofNat 32 v := rfl
@[simp] theorem writePixIdx_payBase (v : Nat) (s : State) : (writePixIdx v s).payBase = s.payBase := rfl
@[simp] theorem writePixIdx_payLen (v : Nat) (s : State) : (writePixIdx v s).payLen = s.payLen := rfl
@[simp] theorem writePixIdx_gridBase (v : Nat) (s : State) : (writePixIdx v s).gridBase = s.gridBase := rfl
@[simp] theorem writePixIdx_outBase (v : Nat) (s : State) : (writePixIdx v s).outBase = s.outBase := rfl
@[simp] theorem writePixIdx_outMax (v : Nat) (s : State) : (writePixIdx v s).outMax = s.outMax := rfl
@[simp] theorem writePixIdx_gridW (v : Nat) (s : State) : (writePixIdx v s).gridW = s.gridW := rfl
@[simp] theorem writePixIdx_gridH (v : Nat) (s : State) : (writePixIdx v s).gridH = s.gridH := rfl
@[simp] theorem writePixIdx_gridNch (v : Nat) (s : State) : (writePixIdx v s).gridNch = s.gridNch := rfl
@[simp] theorem writePixIdx_cmdLatch (v : Nat) (s : State) : (writePixIdx v s).cmdLatch = s.cmdLatch := rfl
@[simp] theorem writePixIdx_lmem (v : Nat) (s : State) : (writePixIdx v s).lmem = s.lmem := rfl
@[simp] theorem writePixIdx_platform (v : Nat) (s : State) : (writePixIdx v s).platform = s.platform := rfl
@[simp] theorem writePixIdx_script (v : Nat) (s : State) : (writePixIdx v s).script = s.script := rfl
@[simp] theorem writePixIdx_reads (v : Nat) (s : State) : (writePixIdx v s).reads = s.reads := rfl

@[simp] theorem setCapOk_ctrlIeDone (b : Bool) (s : State) : (setCapOk b s).ctrlIeDone = s.ctrlIeDone := rfl
@[simp] theorem setCapOk_ctrlIeErr (b : Bool) (s : State) : (setCapOk b s).ctrlIeErr = s.ctrlIeErr := rfl
@[simp] theorem setCapOk_busy (b : Bool) (s : State) : (setCapOk b s).busy = s.busy := rfl
@[simp] theorem setCapOk_done (b : Bool) (s : State) : (setCapOk b s).done = s.done := rfl
@[simp] theorem setCapOk_err (b : Bool) (s : State) : (setCapOk b s).err = s.err := rfl
@[simp] theorem setCapOk_errOvf (b : Bool) (s : State) : (setCapOk b s).errOvf = s.errOvf := rfl
@[simp] theorem setCapOk_capOk (b : Bool) (s : State) : (setCapOk b s).capOk = b := rfl
@[simp] theorem setCapOk_termFound (b : Bool) (s : State) : (setCapOk b s).termFound = s.termFound := rfl
@[simp] theorem setCapOk_trunc (b : Bool) (s : State) : (setCapOk b s).trunc = s.trunc := rfl
@[simp] theorem setCapOk_cause (b : Bool) (s : State) : (setCapOk b s).cause = s.cause := rfl
@[simp] theorem setCapOk_errInfo (b : Bool) (s : State) : (setCapOk b s).errInfo = s.errInfo := rfl
@[simp] theorem setCapOk_res0 (b : Bool) (s : State) : (setCapOk b s).res0 = s.res0 := rfl
@[simp] theorem setCapOk_res1 (b : Bool) (s : State) : (setCapOk b s).res1 = s.res1 := rfl
@[simp] theorem setCapOk_pixIdx (b : Bool) (s : State) : (setCapOk b s).pixIdx = s.pixIdx := rfl
@[simp] theorem setCapOk_payBase (b : Bool) (s : State) : (setCapOk b s).payBase = s.payBase := rfl
@[simp] theorem setCapOk_payLen (b : Bool) (s : State) : (setCapOk b s).payLen = s.payLen := rfl
@[simp] theorem setCapOk_gridBase (b : Bool) (s : State) : (setCapOk b s).gridBase = s.gridBase := rfl
@[simp] theorem setCapOk_outBase (b : Bool) (s : State) : (setCapOk b s).outBase = s.outBase := rfl
@[simp] theorem setCapOk_outMax (b : Bool) (s : State) : (setCapOk b s).outMax = s.outMax := rfl
@[simp] theorem setCapOk_gridW (b : Bool) (s : State) : (setCapOk b s).gridW = s.gridW := rfl
@[simp] theorem setCapOk_gridH (b : Bool) (s : State) : (setCapOk b s).gridH = s.gridH := rfl
@[simp] theorem setCapOk_gridNch (b : Bool) (s : State) : (setCapOk b s).gridNch = s.gridNch := rfl
@[simp] theorem setCapOk_cmdLatch (b : Bool) (s : State) : (setCapOk b s).cmdLatch = s.cmdLatch := rfl
@[simp] theorem setCapOk_lmem (b : Bool) (s : State) : (setCapOk b s).lmem = s.lmem := rfl
@[simp] theorem setCapOk_platform (b : Bool) (s : State) : (setCapOk b s).platform = s.platform := rfl
@[simp] theorem setCapOk_script (b : Bool) (s : State) : (setCapOk b s).script = s.script := rfl
@[simp] theorem setCapOk_reads (b : Bool) (s : State) : (setCapOk b s).reads = s.reads := rfl

@[simp] theorem setTermFound_ctrlIeDone (b : Bool) (s : State) : (setTermFound b s).ctrlIeDone = s.ctrlIeDone := rfl
@[simp] theorem setTermFound_ctrlIeErr (b : Bool) (s : State) : (setTermFound b s).ctrlIeErr = s.ctrlIeErr := rfl
@[simp] theorem setTermFound_busy (b : Bool) (s : State) : (setTermFound b s).busy = s.busy := rfl
@[simp] theorem setTermFound_done (b : Bool) (s : State) : (setTermFound b s).done = s.done := rfl
@[simp] theorem setTermFound_err (b : Bool) (s : State) : (setTermFound b s).err = s.err := rfl
@[simp] theorem setTermFound_errOvf (b : Bool) (s : State) : (setTermFound b s).errOvf = s.errOvf := rfl
@[simp] theorem setTermFound_capOk (b : Bool) (s : State) : (setTermFound b s).capOk = s.capOk := rfl
@[simp] theorem setTermFound_termFound (b : Bool) (s : State) : (setTermFound b s).termFound = b := rfl
@[simp] theorem setTermFound_trunc (b : Bool) (s : State) : (setTermFound b s).trunc = s.trunc := rfl
@[simp] theorem setTermFound_cause (b : Bool) (s : State) : (setTermFound b s).cause = s.cause := rfl
@[simp] theorem setTermFound_errInfo (b : Bool) (s : State) : (setTermFound b s).errInfo = s.errInfo := rfl
@[simp] theorem setTermFound_res0 (b : Bool) (s : State) : (setTermFound b s).res0 = s.res0 := rfl
@[simp] theorem setTermFound_res1 (b : Bool) (s : State) : (setTermFound b s).res1 = s.res1 := rfl
@[simp] theorem setTermFound_pixIdx (b : Bool) (s : State) : (setTermFound b s).pixIdx = s.pixIdx := rfl
@[simp] theorem setTermFound_payBase (b : Bool) (s : State) : (setTermFound b s).payBase = s.payBase := rfl
@[simp] theorem setTermFound_payLen (b : Bool) (s : State) : (setTermFound b s).payLen = s.payLen := rfl
@[simp] theorem setTermFound_gridBase (b : Bool) (s : State) : (setTermFound b s).gridBase = s.gridBase := rfl
@[simp] theorem setTermFound_outBase (b : Bool) (s : State) : (setTermFound b s).outBase = s.outBase := rfl
@[simp] theorem setTermFound_outMax (b : Bool) (s : State) : (setTermFound b s).outMax = s.outMax := rfl
@[simp] theorem setTermFound_gridW (b : Bool) (s : State) : (setTermFound b s).gridW = s.gridW := rfl
@[simp] theorem setTermFound_gridH (b : Bool) (s : State) : (setTermFound b s).gridH = s.gridH := rfl
@[simp] theorem setTermFound_gridNch (b : Bool) (s : State) : (setTermFound b s).gridNch = s.gridNch := rfl
@[simp] theorem setTermFound_cmdLatch (b : Bool) (s : State) : (setTermFound b s).cmdLatch = s.cmdLatch := rfl
@[simp] theorem setTermFound_lmem (b : Bool) (s : State) : (setTermFound b s).lmem = s.lmem := rfl
@[simp] theorem setTermFound_platform (b : Bool) (s : State) : (setTermFound b s).platform = s.platform := rfl
@[simp] theorem setTermFound_script (b : Bool) (s : State) : (setTermFound b s).script = s.script := rfl
@[simp] theorem setTermFound_reads (b : Bool) (s : State) : (setTermFound b s).reads = s.reads := rfl

@[simp] theorem setTrunc_ctrlIeDone (b : Bool) (s : State) : (setTrunc b s).ctrlIeDone = s.ctrlIeDone := rfl
@[simp] theorem setTrunc_ctrlIeErr (b : Bool) (s : State) : (setTrunc b s).ctrlIeErr = s.ctrlIeErr := rfl
@[simp] theorem setTrunc_busy (b : Bool) (s : State) : (setTrunc b s).busy = s.busy := rfl
@[simp] theorem setTrunc_done (b : Bool) (s : State) : (setTrunc b s).done = s.done := rfl
@[simp] theorem setTrunc_err (b : Bool) (s : State) : (setTrunc b s).err = s.err := rfl
@[simp] theorem setTrunc_errOvf (b : Bool) (s : State) : (setTrunc b s).errOvf = s.errOvf := rfl
@[simp] theorem setTrunc_capOk (b : Bool) (s : State) : (setTrunc b s).capOk = s.capOk := rfl
@[simp] theorem setTrunc_termFound (b : Bool) (s : State) : (setTrunc b s).termFound = s.termFound := rfl
@[simp] theorem setTrunc_trunc (b : Bool) (s : State) : (setTrunc b s).trunc = b := rfl
@[simp] theorem setTrunc_cause (b : Bool) (s : State) : (setTrunc b s).cause = s.cause := rfl
@[simp] theorem setTrunc_errInfo (b : Bool) (s : State) : (setTrunc b s).errInfo = s.errInfo := rfl
@[simp] theorem setTrunc_res0 (b : Bool) (s : State) : (setTrunc b s).res0 = s.res0 := rfl
@[simp] theorem setTrunc_res1 (b : Bool) (s : State) : (setTrunc b s).res1 = s.res1 := rfl
@[simp] theorem setTrunc_pixIdx (b : Bool) (s : State) : (setTrunc b s).pixIdx = s.pixIdx := rfl
@[simp] theorem setTrunc_payBase (b : Bool) (s : State) : (setTrunc b s).payBase = s.payBase := rfl
@[simp] theorem setTrunc_payLen (b : Bool) (s : State) : (setTrunc b s).payLen = s.payLen := rfl
@[simp] theorem setTrunc_gridBase (b : Bool) (s : State) : (setTrunc b s).gridBase = s.gridBase := rfl
@[simp] theorem setTrunc_outBase (b : Bool) (s : State) : (setTrunc b s).outBase = s.outBase := rfl
@[simp] theorem setTrunc_outMax (b : Bool) (s : State) : (setTrunc b s).outMax = s.outMax := rfl
@[simp] theorem setTrunc_gridW (b : Bool) (s : State) : (setTrunc b s).gridW = s.gridW := rfl
@[simp] theorem setTrunc_gridH (b : Bool) (s : State) : (setTrunc b s).gridH = s.gridH := rfl
@[simp] theorem setTrunc_gridNch (b : Bool) (s : State) : (setTrunc b s).gridNch = s.gridNch := rfl
@[simp] theorem setTrunc_cmdLatch (b : Bool) (s : State) : (setTrunc b s).cmdLatch = s.cmdLatch := rfl
@[simp] theorem setTrunc_lmem (b : Bool) (s : State) : (setTrunc b s).lmem = s.lmem := rfl
@[simp] theorem setTrunc_platform (b : Bool) (s : State) : (setTrunc b s).platform = s.platform := rfl
@[simp] theorem setTrunc_script (b : Bool) (s : State) : (setTrunc b s).script = s.script := rfl
@[simp] theorem setTrunc_reads (b : Bool) (s : State) : (setTrunc b s).reads = s.reads := rfl

@[simp] theorem finish_ctrlIeDone (s : State) : (finish s).ctrlIeDone = s.ctrlIeDone := rfl
@[simp] theorem finish_ctrlIeErr (s : State) : (finish s).ctrlIeErr = s.ctrlIeErr := rfl
@[simp] theorem finish_busy (s : State) : (finish s).busy = false := rfl
@[simp] theorem finish_done (s : State) : (finish s).done = true := rfl
@[simp] theorem finish_err (s : State) : (finish s).err = s.err := rfl
@[simp] theorem finish_errOvf (s : State) : (finish s).errOvf = s.errOvf := rfl
@[simp] theorem finish_capOk (s : State) : (finish s).capOk = s.capOk := rfl
@[simp] theorem finish_termFound (s : State) : (finish s).termFound = s.termFound := rfl
@[simp] theorem finish_trunc (s : State) : (finish s).trunc = s.trunc := rfl
@[simp] theorem finish_cause (s : State) : (finish s).cause = s.cause := rfl
@[simp] theorem finish_errInfo (s : State) : (finish s).errInfo = s.errInfo := rfl
@[simp] theorem finish_res0 (s : State) : (finish s).res0 = s.res0 := rfl
@[simp] theorem finish_res1 (s : State) : (finish s).res1 = s.res1 := rfl
@[simp] theorem finish_pixIdx (s : State) : (finish s).pixIdx = s.pixIdx := rfl
@[simp] theorem finish_payBase (s : State) : (finish s).payBase = s.payBase := rfl
@[simp] theorem finish_payLen (s : State) : (finish s).payLen = s.payLen := rfl
@[simp] theorem finish_gridBase (s : State) : (finish s).gridBase = s.gridBase := rfl
@[simp] theorem finish_outBase (s : State) : (finish s).outBase = s.outBase := rfl
@[simp] theorem finish_outMax (s : State) : (finish s).outMax = s.outMax := rfl
@[simp] theorem finish_gridW (s : State) : (finish s).gridW = s.gridW := rfl
@[simp] theorem finish_gridH (s : State) : (finish s).gridH = s.gridH := rfl
@[simp] theorem finish_gridNch (s : State) : (finish s).gridNch = s.gridNch := rfl
@[simp] theorem finish_cmdLatch (s : State) : (finish s).cmdLatch = s.cmdLatch := rfl
@[simp] theorem finish_lmem (s : State) : (finish s).lmem = s.lmem := rfl
@[simp] theorem finish_platform (s : State) : (finish s).platform = s.platform := rfl
@[simp] theorem finish_script (s : State) : (finish s).script = s.script := rfl
@[simp] theorem finish_reads (s : State) : (finish s).reads = s.reads := rfl

@[simp] theorem setScript_ctrlIeDone (es : List Event) (s : State) : (setScript es s).ctrlIeDone = s.ctrlIeDone := rfl
@[simp] theorem setScript_ctrlIeErr (es : List Event) (s : State) : (setScript es s).ctrlIeErr = s.ctrlIeErr := rfl
@[simp] theorem setScript_busy (es : List Event) (s : State) : (setScript es s).busy = s.busy := rfl
@[simp] theorem setScript_done (es : List Event) (s : State) : (setScript es s).done = s.done := rfl
@[simp] theorem setScript_err (es : List Event) (s : State) : (setScript es s).err = s.err := rfl
@[simp] theorem setScript_errOvf (es : List Event) (s : State) : (setScript es s).errOvf = s.errOvf := rfl
@[simp] theorem setScript_capOk (es : List Event) (s : State) : (setScript es s).capOk = s.capOk := rfl
@[simp] theorem setScript_termFound (es : List Event) (s : State) : (setScript es s).termFound = s.termFound := rfl
@[simp] theorem setScript_trunc (es : List Event) (s : State) : (setScript es s).trunc = s.trunc := rfl
@[simp] theorem setScript_cause (es : List Event) (s : State) : (setScript es s).cause = s.cause := rfl
@[simp] theorem setScript_errInfo (es : List Event) (s : State) : (setScript es s).errInfo = s.errInfo := rfl
@[simp] theorem setScript_res0 (es : List Event) (s : State) : (setScript es s).res0 = s.res0 := rfl
@[simp] theorem setScript_res1 (es : List Event) (s : State) : (setScript es s).res1 = s.res1 := rfl
@[simp] theorem setScript_pixIdx (es : List Event) (s : State) : (setScript es s).pixIdx = s.pixIdx := rfl
@[simp] theorem setScript_payBase (es : List Event) (s : State) : (setScript es s).payBase = s.payBase := rfl
@[simp] theorem setScript_payLen (es : List Event) (s : State) : (setScript es s).payLen = s.payLen := rfl
@[simp] theorem setScript_gridBase (es : List Event) (s : State) : (setScript es s).gridBase = s.gridBase := rfl
@[simp] theorem setScript_outBase (es : List Event) (s : State) : (setScript es s).outBase = s.outBase := rfl
@[simp] theorem setScript_outMax (es : List Event) (s : State) : (setScript es s).outMax = s.outMax := rfl
@[simp] theorem setScript_gridW (es : List Event) (s : State) : (setScript es s).gridW = s.gridW := rfl
@[simp] theorem setScript_gridH (es : List Event) (s : State) : (setScript es s).gridH = s.gridH := rfl
@[simp] theorem setScript_gridNch (es : List Event) (s : State) : (setScript es s).gridNch = s.gridNch := rfl
@[simp] theorem setScript_cmdLatch (es : List Event) (s : State) : (setScript es s).cmdLatch = s.cmdLatch := rfl
@[simp] theorem setScript_lmem (es : List Event) (s : State) : (setScript es s).lmem = s.lmem := rfl
@[simp] theorem setScript_platform (es : List Event) (s : State) : (setScript es s).platform = s.platform := rfl
@[simp] theorem setScript_script (es : List Event) (s : State) : (setScript es s).script = es := rfl
@[simp] theorem setScript_reads (es : List Event) (s : State) : (setScript es s).reads = s.reads := rfl

@[simp] theorem returnRead_ctrlIeDone (v : Word) (s : State) : (returnRead v s).ctrlIeDone = s.ctrlIeDone := rfl
@[simp] theorem returnRead_ctrlIeErr (v : Word) (s : State) : (returnRead v s).ctrlIeErr = s.ctrlIeErr := rfl
@[simp] theorem returnRead_busy (v : Word) (s : State) : (returnRead v s).busy = s.busy := rfl
@[simp] theorem returnRead_done (v : Word) (s : State) : (returnRead v s).done = s.done := rfl
@[simp] theorem returnRead_err (v : Word) (s : State) : (returnRead v s).err = s.err := rfl
@[simp] theorem returnRead_errOvf (v : Word) (s : State) : (returnRead v s).errOvf = s.errOvf := rfl
@[simp] theorem returnRead_capOk (v : Word) (s : State) : (returnRead v s).capOk = s.capOk := rfl
@[simp] theorem returnRead_termFound (v : Word) (s : State) : (returnRead v s).termFound = s.termFound := rfl
@[simp] theorem returnRead_trunc (v : Word) (s : State) : (returnRead v s).trunc = s.trunc := rfl
@[simp] theorem returnRead_cause (v : Word) (s : State) : (returnRead v s).cause = s.cause := rfl
@[simp] theorem returnRead_errInfo (v : Word) (s : State) : (returnRead v s).errInfo = s.errInfo := rfl
@[simp] theorem returnRead_res0 (v : Word) (s : State) : (returnRead v s).res0 = s.res0 := rfl
@[simp] theorem returnRead_res1 (v : Word) (s : State) : (returnRead v s).res1 = s.res1 := rfl
@[simp] theorem returnRead_pixIdx (v : Word) (s : State) : (returnRead v s).pixIdx = s.pixIdx := rfl
@[simp] theorem returnRead_payBase (v : Word) (s : State) : (returnRead v s).payBase = s.payBase := rfl
@[simp] theorem returnRead_payLen (v : Word) (s : State) : (returnRead v s).payLen = s.payLen := rfl
@[simp] theorem returnRead_gridBase (v : Word) (s : State) : (returnRead v s).gridBase = s.gridBase := rfl
@[simp] theorem returnRead_outBase (v : Word) (s : State) : (returnRead v s).outBase = s.outBase := rfl
@[simp] theorem returnRead_outMax (v : Word) (s : State) : (returnRead v s).outMax = s.outMax := rfl
@[simp] theorem returnRead_gridW (v : Word) (s : State) : (returnRead v s).gridW = s.gridW := rfl
@[simp] theorem returnRead_gridH (v : Word) (s : State) : (returnRead v s).gridH = s.gridH := rfl
@[simp] theorem returnRead_gridNch (v : Word) (s : State) : (returnRead v s).gridNch = s.gridNch := rfl
@[simp] theorem returnRead_cmdLatch (v : Word) (s : State) : (returnRead v s).cmdLatch = s.cmdLatch := rfl
@[simp] theorem returnRead_lmem (v : Word) (s : State) : (returnRead v s).lmem = s.lmem := rfl
@[simp] theorem returnRead_platform (v : Word) (s : State) : (returnRead v s).platform = s.platform := rfl
@[simp] theorem returnRead_script (v : Word) (s : State) : (returnRead v s).script = s.script := rfl
@[simp] theorem returnRead_reads (v : Word) (s : State) : (returnRead v s).reads = v :: s.reads := rfl

/-! `recordError` touches ERR, ERR_OVF, CAUSE and ERR_INFO only (60_exceptions R263). -/

@[simp] theorem recordError_ctrlIeDone (r : Raise) (s : State) : (recordError r s).ctrlIeDone = s.ctrlIeDone := by
  unfold recordError; split <;> rfl
@[simp] theorem recordError_ctrlIeErr (r : Raise) (s : State) : (recordError r s).ctrlIeErr = s.ctrlIeErr := by
  unfold recordError; split <;> rfl
@[simp] theorem recordError_busy (r : Raise) (s : State) : (recordError r s).busy = s.busy := by
  unfold recordError; split <;> rfl
@[simp] theorem recordError_done (r : Raise) (s : State) : (recordError r s).done = s.done := by
  unfold recordError; split <;> rfl
@[simp] theorem recordError_capOk (r : Raise) (s : State) : (recordError r s).capOk = s.capOk := by
  unfold recordError; split <;> rfl
@[simp] theorem recordError_termFound (r : Raise) (s : State) : (recordError r s).termFound = s.termFound := by
  unfold recordError; split <;> rfl
@[simp] theorem recordError_trunc (r : Raise) (s : State) : (recordError r s).trunc = s.trunc := by
  unfold recordError; split <;> rfl
@[simp] theorem recordError_res0 (r : Raise) (s : State) : (recordError r s).res0 = s.res0 := by
  unfold recordError; split <;> rfl
@[simp] theorem recordError_res1 (r : Raise) (s : State) : (recordError r s).res1 = s.res1 := by
  unfold recordError; split <;> rfl
@[simp] theorem recordError_pixIdx (r : Raise) (s : State) : (recordError r s).pixIdx = s.pixIdx := by
  unfold recordError; split <;> rfl
@[simp] theorem recordError_payBase (r : Raise) (s : State) : (recordError r s).payBase = s.payBase := by
  unfold recordError; split <;> rfl
@[simp] theorem recordError_payLen (r : Raise) (s : State) : (recordError r s).payLen = s.payLen := by
  unfold recordError; split <;> rfl
@[simp] theorem recordError_gridBase (r : Raise) (s : State) : (recordError r s).gridBase = s.gridBase := by
  unfold recordError; split <;> rfl
@[simp] theorem recordError_outBase (r : Raise) (s : State) : (recordError r s).outBase = s.outBase := by
  unfold recordError; split <;> rfl
@[simp] theorem recordError_outMax (r : Raise) (s : State) : (recordError r s).outMax = s.outMax := by
  unfold recordError; split <;> rfl
@[simp] theorem recordError_gridW (r : Raise) (s : State) : (recordError r s).gridW = s.gridW := by
  unfold recordError; split <;> rfl
@[simp] theorem recordError_gridH (r : Raise) (s : State) : (recordError r s).gridH = s.gridH := by
  unfold recordError; split <;> rfl
@[simp] theorem recordError_gridNch (r : Raise) (s : State) : (recordError r s).gridNch = s.gridNch := by
  unfold recordError; split <;> rfl
@[simp] theorem recordError_cmdLatch (r : Raise) (s : State) : (recordError r s).cmdLatch = s.cmdLatch := by
  unfold recordError; split <;> rfl
@[simp] theorem recordError_lmem (r : Raise) (s : State) : (recordError r s).lmem = s.lmem := by
  unfold recordError; split <;> rfl
@[simp] theorem recordError_platform (r : Raise) (s : State) : (recordError r s).platform = s.platform := by
  unfold recordError; split <;> rfl
@[simp] theorem recordError_script (r : Raise) (s : State) : (recordError r s).script = s.script := by
  unfold recordError; split <;> rfl
@[simp] theorem recordError_reads (r : Raise) (s : State) : (recordError r s).reads = s.reads := by
  unfold recordError; split <;> rfl
@[simp] theorem recordError_err (r : Raise) (s : State) : (recordError r s).err = true := by
  unfold recordError; split <;> simp_all
@[simp] theorem recordError_errOvf (r : Raise) (s : State) : (recordError r s).errOvf = (s.errOvf || s.err) := by
  unfold recordError; split <;> simp_all
@[simp] theorem recordError_cause (r : Raise) (s : State) :
    (recordError r s).cause = if s.err then s.cause else r.cause.code := by
  unfold recordError; split <;> rfl
@[simp] theorem recordError_errInfo (r : Raise) (s : State) :
    (recordError r s).errInfo = if s.err then s.errInfo else r.info := by
  unfold recordError; split <;> rfl

end Sys2Proof.Machine
end

