-- ==== Sys2Proof/Laws/Ops.lean ====
section
/-! SUPPORT. What each shared operation can do: the two LMEM primitives, their loops, and the endings of a command. -/

namespace Sys2Proof.Machine

/-- MemRead succeeds exactly on a written byte of LMEM. -/
theorem memRead_ok_iff {i : Instr} {s : State} {a : Nat} {b : Byte} :
    memRead i s a = .ok b ↔ a < s.platform.lmemBytes ∧ s.lmem.read a = some b := by
  unfold memRead
  split
  · split <;> simp_all
  · simp_all

/-- MemRead of a written byte of LMEM. -/
theorem memRead_of_read {i : Instr} {s : State} {a : Nat} {b : Byte} (ha : a < s.platform.lmemBytes)
    (hb : s.lmem.read a = some b) : memRead i s a = .ok b := memRead_ok_iff.2 ⟨ha, hb⟩

/-- MemRead's faults: an UNWRITTEN byte, or an address outside LMEM. -/
theorem memRead_error_iff {i : Instr} {s : State} {a : Nat} {f : Fault} :
    memRead i s a = .error f ↔
      (a < s.platform.lmemBytes ∧ s.lmem.read a = none ∧ f = .unwrittenRead a i) ∨
      (¬ a < s.platform.lmemBytes ∧ f = .lmemOutOfRange a) := by
  unfold memRead
  cases s.lmem.read a <;> split <;> simp_all [eq_comm]

/-- MemWrite inside LMEM replaces LMEM and nothing else. -/
theorem memWrite_ok_iff {a : Nat} {v : Byte} {s t : State} :
    memWrite a v s = .ok t ↔ a < s.platform.lmemBytes ∧ t = setLmem (s.lmem.write a v) s := by
  unfold memWrite
  split <;> simp_all [eq_comm]

/-- MemWrite inside LMEM. -/
theorem memWrite_of_lt {a : Nat} {v : Byte} {s : State} (ha : a < s.platform.lmemBytes) :
    memWrite a v s = .ok (setLmem (s.lmem.write a v) s) := memWrite_ok_iff.2 ⟨ha, rfl⟩

/-- MemWrite's only fault. -/
theorem memWrite_error_iff {a : Nat} {v : Byte} {s : State} {f : Fault} :
    memWrite a v s = .error f ↔ ¬ a < s.platform.lmemBytes ∧ f = .lmemOutOfRange a := by
  unfold memWrite
  split <;> simp_all [eq_comm]

/-- What a sequence of MemReads gives, when it gives something. -/
theorem readBytes_ok {i : Instr} {s : State} {n a : Nat} {bs : List Byte} (h : readBytes i s a n = .ok bs) :
    bs.length = n ∧ ∀ j, j < n → s.lmem.read (a + j) = bs[j]? := by
  induction n generalizing a bs with
  | zero => simp_all [readBytes]
  | succ n ih =>
    cases hb : memRead i s a with
    | error f => simp [readBytes, hb, bind, Except.bind] at h
    | ok b =>
      cases hr : readBytes i s (a + 1) n with
      | error f => simp [readBytes, hb, hr, bind, Except.bind] at h
      | ok r =>
        simp only [readBytes, hb, hr, bind, Except.bind, Except.ok.injEq] at h
        subst h
        obtain ⟨hl, hg⟩ := ih hr
        refine ⟨by simp [hl], fun j hj => ?_⟩
        cases j with
        | zero => simpa using (memRead_ok_iff.1 hb).2
        | succ j =>
          have := hg j (by omega)
          simpa [Nat.add_assoc, Nat.add_comm 1 j] using this

/-- A sequence of MemReads succeeds on written bytes of LMEM. -/
theorem readBytes_exists {i : Instr} {s : State} {n a : Nat} (hin : n = 0 ∨ a + n ≤ s.platform.lmemBytes)
    (hw : ∀ j, j < n → (s.lmem.read (a + j)).isSome = true) : ∃ bs, readBytes i s a n = .ok bs := by
  induction n generalizing a with
  | zero => exact ⟨[], rfl⟩
  | succ n ih =>
    obtain ⟨b, hb⟩ := Option.isSome_iff_exists.1 (hw 0 (by omega))
    obtain ⟨bs, hbs⟩ := ih (a := a + 1) (by omega) fun j hj => by
      have := hw (j + 1) (by omega)
      rwa [show a + (j + 1) = a + 1 + j by omega] at this
    have hm : memRead i s a = .ok b := memRead_of_read (by omega) (by simpa using hb)
    exact ⟨b :: bs, by simp [readBytes, hm, hbs, bind, Except.bind]⟩

/-- A sequence of MemReads faults only on an UNWRITTEN byte of its range, when the range lies in LMEM. -/
theorem readBytes_error {i : Instr} {s : State} {n a : Nat} {f : Fault} (hin : n = 0 ∨ a + n ≤ s.platform.lmemBytes)
    (h : readBytes i s a n = .error f) :
    ∃ j, j < n ∧ s.lmem.read (a + j) = none ∧ f = .unwrittenRead (a + j) i := by
  induction n generalizing a with
  | zero => simp [readBytes] at h
  | succ n ih =>
    cases hb : memRead i s a with
    | error g =>
      simp only [readBytes, hb, bind, Except.bind, Except.error.injEq] at h
      subst h
      rcases memRead_error_iff.1 hb with ⟨_, hn, rfl⟩ | ⟨hlt, _⟩
      · exact ⟨0, by omega, hn, rfl⟩
      · omega
    | ok b =>
      cases hr : readBytes i s (a + 1) n with
      | ok r => simp [readBytes, hb, hr, bind, Except.bind] at h
      | error g =>
        simp only [readBytes, hb, hr, bind, Except.bind, Except.error.injEq] at h
        subst h
        obtain ⟨j, hj, hn, rfl⟩ := ih (by omega) hr
        refine ⟨j + 1, by omega, ?_, ?_⟩ <;> rw [show a + (j + 1) = a + 1 + j by omega]
        exact hn

/-- Stores of bytes inside LMEM succeed; they replace LMEM and nothing else, byte j lands at `a + j`, and every other byte
stays. -/
theorem writeBytes_spec {bs : List Byte} {a : Nat} {s : State} (hin : bs = [] ∨ a + bs.length ≤ s.platform.lmemBytes) :
    ∃ m, writeBytes a bs s = .ok (setLmem m s) ∧ (∀ j, j < bs.length → m.read (a + j) = bs[j]?) ∧
      (∀ x, ¬ (a ≤ x ∧ x < a + bs.length) → m.read x = s.lmem.read x) ∧
      (s.lmem.wf = true → m.wf = true) ∧
      (s.lmem.within s.platform.lmemBytes = true → m.within s.platform.lmemBytes = true) := by
  induction bs generalizing a s with
  | nil => exact ⟨s.lmem, rfl, by simp, by simp, id, id⟩
  | cons b bs ih =>
    have hlen : a + bs.length + 1 ≤ s.platform.lmemBytes := by simpa [Nat.add_assoc] using hin
    have hm := memWrite_of_lt (v := b) (s := s) (a := a) (by omega)
    obtain ⟨m, hok, hj, hx, hwf, hin'⟩ := ih (a := a + 1) (s := setLmem (s.lmem.write a b) s) (.inr (by simp; omega))
    refine ⟨m, ?_, ?_, ?_, ?_, ?_⟩
    · simp only [writeBytes, hm, bind, Except.bind]
      exact hok
    · intro j hjl
      cases j with
      | zero =>
        rw [Nat.add_zero, hx a (by omega)]
        simp
      | succ j =>
        rw [show a + (j + 1) = a + 1 + j by omega, hj j (by simpa using hjl)]
        simp
    · intro x hxa
      simp only [List.length_cons] at hxa
      rw [hx x (by omega), setLmem_lmem, Memory.read_write_other _ _ (by omega)]
    · intro h
      exact hwf (Memory.write_wf a b h)
    · intro h
      exact hin' (Memory.write_within b h (by rw [setLmem_platform]; omega))

/-- An error ends a command in one state, which differs in ERR, ERR_OVF, CAUSE, ERR_INFO, BUSY and DONE only. -/
theorem raise_eq_next (r : Raise) (s : State) : raise r s = .next (finish (recordError r s)) := rfl

/-- A transform that may fault ends in the finished state or in that fault. -/
theorem completeOrFault_next {x : Except Fault State} {t : State} :
    completeOrFault x = .next t ↔ ∃ s, x = .ok s ∧ t = finish s := by
  cases x <;> simp [completeOrFault, complete, eq_comm]

/-- A transform's fault is the command's. -/
theorem completeOrFault_fault {x : Except Fault State} {f : Fault} :
    completeOrFault x = .fault f ↔ x = .error f := by
  cases x <;> simp [completeOrFault, complete]

/-- A list of checks raises nothing exactly when none of them fails. -/
theorem firstRaise_none_iff (l : List (Bool × Raise)) : firstRaise l = none ↔ ∀ c ∈ l, c.1 = false := by
  induction l with
  | nil => simp [firstRaise]
  | cons c l ih =>
    obtain ⟨b, r⟩ := c
    cases b <;> simp [firstRaise, ih]

end Sys2Proof.Machine
end

