-- ==== Sys2Proof/Laws/HostBus.lean ====
section
/-! SUPPORT. The laws of the host's side: LMEM writes keep the canonical form and the bound, a register stands at its own
offset, and what a host access and the next turn can do. -/

namespace Sys2Proof.Machine

/-- A host write to LMEM keeps the canonical form. -/
theorem hostWriteLmem_wf {m : Memory} (a bytes : Nat) (v : Word) (h : m.wf = true) :
    (hostWriteLmem m a bytes v).wf = true := by
  unfold hostWriteLmem
  split
  · exact Memory.write_wf _ _ h
  · exact Memory.write_wf _ _ (Memory.write_wf _ _ (Memory.write_wf _ _ (Memory.write_wf _ _ h)))

/-- A legal host write to LMEM stays inside LMEM. -/
theorem hostWriteLmem_within {m : Memory} {n a bytes : Nat} (v : Word) (hl : lmemAccessLegal n a bytes = true)
    (h : m.within n = true) : (hostWriteLmem m a bytes v).within n = true := by
  unfold hostWriteLmem
  simp only [lmemAccessLegal, Bool.or_eq_true, Bool.and_eq_true, beq_iff_eq, decide_eq_true_eq] at hl
  split
  · exact Memory.write_within _ h (by omega)
  · exact Memory.write_within _ (Memory.write_within _ (Memory.write_within _ (Memory.write_within _ h (by omega))
      (by omega)) (by omega)) (by omega)

/-- The register found at a register's offset is that register (10_state R24). -/
theorem regAt_offset (r : Reg) : regAt r.offset = some r := by cases r <;> rfl

/-- Every register's offset is a multiple of 4 inside the window (10_state R24). -/
theorem offset_legal (r : Reg) : r.offset < 256 ∧ r.offset % 4 = 0 := by cases r <;> decide

/-- A host access gives a next state that differs by a register write, an LMEM write or a returned value, and nothing
else (20_memory R63, R64). -/
theorem hostStep_cases {access : HostAccess} {s t : State} (h : hostStep access s = .next t) :
    (∃ v, t = returnRead v s) ∨ (∃ off v, t = writeWindow off v s) ∨
      ∃ a bytes v, lmemAccessLegal s.platform.lmemBytes a bytes = true ∧ t = setLmem (hostWriteLmem s.lmem a bytes v) s := by
  unfold hostStep at h
  split at h
  · split at h
    · cases h
    · unfold hostRegisterStep at h
      split at h
      · cases access <;> cases h
        · exact .inl ⟨_, rfl⟩
        · exact .inr (.inl ⟨_, _, rfl⟩)
      · cases h
  · split at h
    · unfold hostLmemStep at h
      split at h
      · rename_i hl
        cases access with
        | read x n =>
          simp only at h
          split at h
          · cases h
            exact .inl ⟨_, rfl⟩
          · cases h
        | write x n v =>
          cases h
          exact .inr (.inr ⟨_, _, _, hl, rfl⟩)
      · cases h
    · cases h

/-- The core's turn comes only while BUSY = 1, on the state itself or without the turn at the head of its script
(46 R220; 70_reset R311, R316). -/
theorem nextTurn_core {s s' : State} (h : nextTurn s = .core s') :
    s.busy = true ∧ (s' = s ∨ ∃ es, s.script = .core :: es ∧ s' = setScript es s) := by
  unfold nextTurn at h
  split at h
  · split at h <;> cases h
    exact ⟨‹_›, .inl rfl⟩
  · rename_i hs
    split at h <;> cases h
    exact ⟨‹_›, .inr ⟨_, hs, rfl⟩⟩
  · split at h <;> cases h
    rename_i hh
    exact ⟨by simp only [hostHeld, Bool.and_eq_true] at hh; exact hh.1.1.1, .inl rfl⟩
  · cases h
  · cases h

end Sys2Proof.Machine
end

