-- ==== Sys2Proof/Laws/Operands.lean ====
section
/-! SUPPORT. The region and configuration checks as propositions, and the arithmetic of pixel addresses. -/

namespace Sys2Proof.Machine

theorem nchLegal_iff (s : State) : nchLegal s = true ↔ ConfigOk s := by
  simp [nchLegal]

theorem inRange_iff (s : State) (r : Region) : r.inRange s.platform.lmemBytes = true ↔ RegionOk s r := by
  simp [Region.inRange]

theorem overlaps_iff (r q : Region) : r.overlaps q = true ↔ RegionsOverlap r q := by
  simp [Region.overlaps, and_assoc]

/-- CAPQ's and ENC's checks raise nothing exactly when their conditions hold. -/
theorem payloadGridChecks_none_iff (s : State) : firstRaise (payloadGridChecks s) = none ↔ PayloadGridOk s := by
  rw [firstRaise_none_iff]
  simp only [payloadGridChecks, checkConfig, checkRange, checkOverlap, List.forall_mem_cons, List.not_mem_nil,
    false_imp_iff, implies_true, and_true, Bool.not_eq_false', nchLegal_iff, inRange_iff]
  rw [← Bool.not_eq_true, overlaps_iff]

/-- DEC's checks raise nothing exactly when their conditions hold. -/
theorem gridOutputChecks_none_iff (s : State) : firstRaise (gridOutputChecks s) = none ↔ GridOutputOk s := by
  rw [firstRaise_none_iff]
  simp only [gridOutputChecks, checkConfig, checkRange, checkOverlap, List.forall_mem_cons, List.not_mem_nil,
    false_imp_iff, implies_true, and_true, Bool.not_eq_false', nchLegal_iff, inRange_iff]
  rw [← Bool.not_eq_true, overlaps_iff]

/-- DPIX's and GPIX's checks raise nothing exactly when their conditions hold. -/
theorem pixelChecks_none_iff (s : State) : firstRaise (pixelChecks s) = none ↔ PixelOk s := by
  rw [firstRaise_none_iff]
  simp [pixelChecks, checkConfig, checkRange, nchLegal_iff, inRange_iff]

/-- A legal channel count is 3 or 4. -/
theorem ConfigOk.nch {s : State} (h : ConfigOk s) : (gridOf s).nch = 3 ∨ (gridOf s).nch = 4 := by
  rcases h with h | h <;> simp [gridOf, h]

/-- A channel of a pixel of the grid lies in the grid region. -/
theorem Grid.addr_lt {g : Grid} {p c : Nat} (hp : p < g.pixels) (hc : c < g.nch) :
    g.addr p c < g.base + g.region.size := by
  have h : (p + 1) * g.nch ≤ g.pixels * g.nch := Nat.mul_le_mul_right _ hp
  simp only [Grid.region, Grid.addr, Grid.pixels, Nat.add_mul, Nat.one_mul] at *
  omega

/-- A channel of a pixel of a grid in range lies in LMEM. -/
theorem RegionOk.addr_lt {s : State} (hg : RegionOk s (gridOf s).region) {p c : Nat} (hp : p < (gridOf s).pixels)
    (hc : c < (gridOf s).nch) : (gridOf s).addr p c < s.platform.lmemBytes := by
  have h := Grid.addr_lt hp hc
  have h2 : (gridOf s).base ≤ (gridOf s).addr p c := by simp [Grid.addr, Nat.add_assoc]
  rcases hg with hg | hg
  · omega
  · exact lt_of_lt_of_le h hg

/-- Channels of pixels have addresses of their own. -/
theorem Grid.addr_inj {g : Grid} {p q c d : Nat} (hc : c < g.nch) (hd : d < g.nch)
    (h : g.addr p c = g.addr q d) : p = q ∧ c = d := by
  simp only [Grid.addr] at h
  have h' : p * g.nch + c = q * g.nch + d := by omega
  have hp : p = q := by
    have h1 := congrArg (· / g.nch) h'
    simpa [Nat.mul_comm _ g.nch, Nat.mul_add_div (by omega : g.nch > 0), Nat.div_eq_of_lt hc, Nat.div_eq_of_lt hd]
      using h1
  subst hp
  exact ⟨rfl, by omega⟩

/-- The two forms of ReqPixels agree (42 R142). -/
theorem reqPixels_eq (s : State) : reqPixels s.payLen.toNat = requiredPixels s := by
  unfold reqPixels requiredPixels padCount
  omega

end Sys2Proof.Machine
end

