-- ==== Sys2Proof/Laws/PerInstr.lean ====
section
/-! SUPPORT. A statement made for every command, one constructor at a time: the fixed fields of its word (spec 30_encoding
R91, R94). -/

/-- The word of a command carries the command's OP and SUB = 0 (30_encoding R91, R94). -/
def Sys2Proof.Laws.FixedFields.Statement (i : Sys2Proof.Instr) : Prop :=
  Sys2Proof.opField (Sys2Proof.encode i) = Sys2Proof.opcodeOf i ∧ Sys2Proof.subField (Sys2Proof.encode i) = 0

namespace Sys2Proof.Laws.FixedFields

/-- The fixed fields stand above IMM24, whatever IMM24 holds. -/
theorem fields_of_append (op : BitVec 4) (imm : BitVec 24) :
    (op ++ 0#4 ++ imm).extractLsb' 28 4 = op ∧ (op ++ 0#4 ++ imm).extractLsb' 24 4 = 0#4 := by
  constructor <;>
  · apply BitVec.eq_of_getLsbD_eq
    intro j hj
    simp only [BitVec.getLsbD_extractLsb', BitVec.getLsbD_append]
    interval_cases j <;> simp

theorem nop : Statement .nop := fields_of_append _ _

theorem enc : Statement .enc := fields_of_append _ _

theorem dec : Statement .dec := fields_of_append _ _

theorem capq : Statement .capq := fields_of_append _ _

theorem unpk (b8 : Byte) : Statement (.unpk b8) := fields_of_append _ _

theorem padc (n24 : Count24) : Statement (.padc n24) := fields_of_append _ _

theorem dpix (t0 t1 t2 : Nibble) : Statement (.dpix t0 t1 t2) := fields_of_append _ _

theorem gpix : Statement .gpix := fields_of_append _ _

theorem rpk (s0 s1 : Slot) : Statement (.rpk s0 s1) := fields_of_append _ _

theorem tdet (b8 : Byte) : Statement (.tdet b8) := fields_of_append _ _

end Sys2Proof.Laws.FixedFields
end

