-- ==== Sys2Proof/Laws/Pixels.lean ====
section
/-! SUPPORT. What the pixel operations can do: one channel, one pixel, and the walks of WriteTriples and GatherAll. -/

namespace Sys2Proof.Machine

/-- One channel update of a written byte of LMEM. -/
theorem embedAt_of_read {i : Instr} {s : State} {a : Nat} {n : Slot} {v : Byte} (ha : a < s.platform.lmemBytes)
    (hv : s.lmem.read a = some v) : embedAt i a n s = .ok (setLmem (s.lmem.write a (embed v n)) s) := by
  simp [embedAt, memRead_of_read ha hv, memWrite_of_lt ha, bind, Except.bind]

/-- One channel update faults only on an UNWRITTEN byte, when its address lies in LMEM. -/
theorem embedAt_error {i : Instr} {s : State} {a : Nat} {n : Slot} {f : Fault} (ha : a < s.platform.lmemBytes)
    (h : embedAt i a n s = .error f) : s.lmem.read a = none ∧ f = .unwrittenRead a i := by
  cases hr : s.lmem.read a with
  | none => simpa [embedAt, memRead, ha, hr, bind, Except.bind, eq_comm] using h
  | some v => rw [embedAt_of_read ha hr] at h; cases h

/-- What a write of R, G and B of one pixel does to one byte. -/
theorem read_write3 (m : Memory) (a0 a1 a2 a : Nat) (b0 b1 b2 : Byte) :
    (((m.write a0 b0).write a1 b1).write a2 b2).read a =
      if a = a2 then some b2 else if a = a1 then some b1 else if a = a0 then some b0 else m.read a := by
  simp only [Memory.read_write]

/-- The three channels of one pixel, all written and in LMEM, take their nibbles. -/
theorem embedPixel_of_read {i : Instr} {g : Grid} {p : Nat} {n0 n1 n2 : Slot} {s : State} {v0 v1 v2 : Byte}
    (hin : ∀ c, c < 3 → g.addr p c < s.platform.lmemBytes)
    (h0 : s.lmem.read (g.addr p 0) = some v0) (h1 : s.lmem.read (g.addr p 1) = some v1)
    (h2 : s.lmem.read (g.addr p 2) = some v2) :
    embedPixel i g p n0 n1 n2 s = .ok (setLmem (((s.lmem.write (g.addr p 0) (embed v0 n0)).write (g.addr p 1)
      (embed v1 n1)).write (g.addr p 2) (embed v2 n2)) s) := by
  have e01 : g.addr p 1 ≠ g.addr p 0 := by simp [Grid.addr]
  have e02 : g.addr p 2 ≠ g.addr p 0 := by simp [Grid.addr]
  have e12 : g.addr p 2 ≠ g.addr p 1 := by simp [Grid.addr]
  unfold embedPixel
  rw [embedAt_of_read (hin 0 (by omega)) h0]
  simp only [bind, Except.bind]
  rw [embedAt_of_read (v := v1) (by simpa using hin 1 (by omega))
    (by simpa [Memory.read_write_other _ _ e01] using h1)]
  simp only
  rw [embedAt_of_read (v := v2) (by simpa using hin 2 (by omega))
    (by simpa [Memory.read_write_other _ _ e12, Memory.read_write_other _ _ e02] using h2)]
  rfl

/-- One pixel's update faults only on an UNWRITTEN channel of that pixel. -/
theorem embedPixel_error {i : Instr} {g : Grid} {p : Nat} {n0 n1 n2 : Slot} {s : State} {f : Fault}
    (hin : ∀ c, c < 3 → g.addr p c < s.platform.lmemBytes) (h : embedPixel i g p n0 n1 n2 s = .error f) :
    ∃ c, c < 3 ∧ s.lmem.read (g.addr p c) = none ∧ f = .unwrittenRead (g.addr p c) i := by
  have e01 : g.addr p 1 ≠ g.addr p 0 := by simp [Grid.addr]
  have e02 : g.addr p 2 ≠ g.addr p 0 := by simp [Grid.addr]
  have e12 : g.addr p 2 ≠ g.addr p 1 := by simp [Grid.addr]
  cases h0 : s.lmem.read (g.addr p 0) with
  | none =>
    refine ⟨0, by omega, h0, ?_⟩
    have hm : memRead i s (g.addr p 0) = .error (.unwrittenRead (g.addr p 0) i) :=
      memRead_error_iff.2 (.inl ⟨hin 0 (by omega), h0, rfl⟩)
    simpa [embedPixel, embedAt, hm, bind, Except.bind, eq_comm] using h
  | some v0 =>
    unfold embedPixel at h
    rw [embedAt_of_read (hin 0 (by omega)) h0] at h
    simp only [bind, Except.bind] at h
    cases h1 : s.lmem.read (g.addr p 1) with
    | none =>
      refine ⟨1, by omega, h1, ?_⟩
      cases hx : embedAt i (g.addr p 1) n1 (setLmem (s.lmem.write (g.addr p 0) (embed v0 n0)) s) with
      | error f' =>
        rw [hx] at h
        cases h
        exact (embedAt_error (by simpa using hin 1 (by omega)) hx).2
      | ok s' =>
        simp [embedAt, memRead, hin 1 (by omega), Memory.read_write_other _ _ e01, h1, bind, Except.bind] at hx
    | some v1 =>
      rw [embedAt_of_read (v := v1) (by simpa using hin 1 (by omega))
        (by simpa [Memory.read_write_other _ _ e01] using h1)] at h
      simp only at h
      obtain ⟨hn, rfl⟩ := embedAt_error (by simpa using hin 2 (by omega)) h
      exact ⟨2, by omega, by simpa [Memory.read_write_other _ _ e12, Memory.read_write_other _ _ e02] using hn, rfl⟩

/-- A pixel that has been updated had all three channels written. -/
theorem embedPixel_ok_reads {i : Instr} {g : Grid} {p : Nat} {n0 n1 n2 : Slot} {s s' : State}
    (hin : ∀ c, c < 3 → g.addr p c < s.platform.lmemBytes) (h : embedPixel i g p n0 n1 n2 s = .ok s') :
    ∀ c, c < 3 → ∃ v, s.lmem.read (g.addr p c) = some v := by
  have e01 : g.addr p 1 ≠ g.addr p 0 := by simp [Grid.addr]
  have e02 : g.addr p 2 ≠ g.addr p 0 := by simp [Grid.addr]
  have e12 : g.addr p 2 ≠ g.addr p 1 := by simp [Grid.addr]
  have hin0 := hin 0 (by omega)
  have hin1 := hin 1 (by omega)
  have hin2 := hin 2 (by omega)
  cases h0 : s.lmem.read (g.addr p 0) with
  | none => simp [embedPixel, embedAt, memRead, hin0, h0, bind, Except.bind] at h
  | some v0 =>
    unfold embedPixel at h
    rw [embedAt_of_read hin0 h0] at h
    simp only [bind, Except.bind] at h
    cases h1 : s.lmem.read (g.addr p 1) with
    | none => simp [embedAt, memRead, hin1, Memory.read_write_other _ _ e01, h1, bind, Except.bind] at h
    | some v1 =>
      rw [embedAt_of_read (v := v1) (by simpa using hin1) (by simpa [Memory.read_write_other _ _ e01] using h1)] at h
      cases h2 : s.lmem.read (g.addr p 2) with
      | none =>
        simp [embedAt, memRead, hin2, Memory.read_write_other _ _ e12, Memory.read_write_other _ _ e02, h2, bind,
          Except.bind] at h
      | some v2 =>
        intro c hc
        match c, hc with
        | 0, _ => exact ⟨v0, h0⟩
        | 1, _ => exact ⟨v1, h1⟩
        | 2, _ => exact ⟨v2, h2⟩

/-- The three nibbles of a pixel whose channels are written and in LMEM. -/
theorem extractPixel_of_read {i : Instr} {g : Grid} {p : Nat} {s : State} {v0 v1 v2 : Byte}
    (hin : ∀ c, c < 3 → g.addr p c < s.platform.lmemBytes)
    (h0 : s.lmem.read (g.addr p 0) = some v0) (h1 : s.lmem.read (g.addr p 1) = some v1)
    (h2 : s.lmem.read (g.addr p 2) = some v2) :
    extractPixel i g p s = .ok (extract v0, extract v1, extract v2) := by
  simp [extractPixel, memRead_of_read (hin 0 (by omega)) h0, memRead_of_read (hin 1 (by omega)) h1,
    memRead_of_read (hin 2 (by omega)) h2, bind, Except.bind]

/-- A pixel whose channels lie in LMEM is read, or one of its channels is UNWRITTEN. -/
theorem extractPixel_error {i : Instr} {g : Grid} {p : Nat} {s : State} {f : Fault}
    (hin : ∀ c, c < 3 → g.addr p c < s.platform.lmemBytes) (h : extractPixel i g p s = .error f) :
    ∃ c, c < 3 ∧ s.lmem.read (g.addr p c) = none ∧ f = .unwrittenRead (g.addr p c) i := by
  have key : ∀ c, c < 3 → s.lmem.read (g.addr p c) = none →
      memRead i s (g.addr p c) = .error (.unwrittenRead (g.addr p c) i) :=
    fun c hc hn => memRead_error_iff.2 (.inl ⟨hin c hc, hn, rfl⟩)
  cases h0 : s.lmem.read (g.addr p 0) with
  | none => exact ⟨0, by omega, h0, by simpa [extractPixel, key 0 (by omega) h0, bind, Except.bind, eq_comm] using h⟩
  | some v0 =>
    have m0 := memRead_of_read (i := i) (hin 0 (by omega)) h0
    cases h1 : s.lmem.read (g.addr p 1) with
    | none =>
      exact ⟨1, by omega, h1, by simpa [extractPixel, m0, key 1 (by omega) h1, bind, Except.bind, eq_comm] using h⟩
    | some v1 =>
      have m1 := memRead_of_read (i := i) (hin 1 (by omega)) h1
      cases h2 : s.lmem.read (g.addr p 2) with
      | none =>
        exact ⟨2, by omega, h2,
          by simpa [extractPixel, m0, m1, key 2 (by omega) h2, bind, Except.bind, eq_comm] using h⟩
      | some v2 => rw [extractPixel_of_read hin h0 h1 h2] at h; cases h

/-- A pixel that has been read had all three channels written. -/
theorem extractPixel_ok_reads {i : Instr} {g : Grid} {p : Nat} {s : State} {t : Slot × Slot × Slot}
    (h : extractPixel i g p s = .ok t) : ∀ c, c < 3 → (s.lmem.read (g.addr p c)).isSome = true := by
  cases h0 : memRead i s (g.addr p 0) with
  | error f => simp [extractPixel, h0, bind, Except.bind] at h
  | ok v0 =>
    cases h1 : memRead i s (g.addr p 1) with
    | error f => simp [extractPixel, h0, h1, bind, Except.bind] at h
    | ok v1 =>
      cases h2 : memRead i s (g.addr p 2) with
      | error f => simp [extractPixel, h0, h1, h2, bind, Except.bind] at h
      | ok v2 =>
        intro c hc
        match c, hc with
        | 0, _ => simp [(memRead_ok_iff.1 h0).2]
        | 1, _ => simp [(memRead_ok_iff.1 h1).2]
        | 2, _ => simp [(memRead_ok_iff.1 h2).2]

/-- GatherAll over n pixels whose channels are written and in LMEM: element 3k + c is the low nibble of channel c of the
k-th pixel. -/
theorem gatherPixels_spec {i : Instr} {g : Grid} {s : State} {n p : Nat}
    (hin : ∀ k, k < n → ∀ c, c < 3 → g.addr (p + k) c < s.platform.lmemBytes)
    (hw : ∀ k, k < n → ∀ c, c < 3 → (s.lmem.read (g.addr (p + k) c)).isSome = true) :
    ∃ q, gatherPixels i g s p n = .ok q ∧ q.length = 3 * n ∧
      ∀ k, k < n → ∀ c, c < 3 → q[3 * k + c]? = (s.lmem.read (g.addr (p + k) c)).map extract := by
  induction n generalizing p with
  | zero => exact ⟨[], rfl, rfl, by simp⟩
  | succ n ih =>
    obtain ⟨v0, h0⟩ := Option.isSome_iff_exists.1 (hw 0 (by omega) 0 (by omega))
    obtain ⟨v1, h1⟩ := Option.isSome_iff_exists.1 (hw 0 (by omega) 1 (by omega))
    obtain ⟨v2, h2⟩ := Option.isSome_iff_exists.1 (hw 0 (by omega) 2 (by omega))
    have e : ∀ k, p + (k + 1) = p + 1 + k := fun k => by omega
    obtain ⟨q, hq, hl, hg⟩ := ih (p := p + 1) (fun k hk c hc => e k ▸ hin (k + 1) (by omega) c hc)
      (fun k hk c hc => e k ▸ hw (k + 1) (by omega) c hc)
    rw [Nat.add_zero] at h0 h1 h2
    have hx := extractPixel_of_read (i := i) (p := p) (fun c hc => hin 0 (by omega) c hc) h0 h1 h2
    refine ⟨extract v0 :: extract v1 :: extract v2 :: q, ?_, by simp [hl]; omega, ?_⟩
    · simp only [gatherPixels, hx, hq, bind, Except.bind]
    · intro k hk c hc
      cases k with
      | zero =>
        match c, hc with
        | 0, _ => simp [h0]
        | 1, _ => simp [h1]
        | 2, _ => simp [h2]
      | succ k =>
        rw [show 3 * (k + 1) + c = 3 * k + c + 3 by omega, e k]
        simpa using hg k (by omega) c hc

/-- GatherAll faults only on an UNWRITTEN channel of one of its pixels. -/
theorem gatherPixels_error {i : Instr} {g : Grid} {s : State} {n p : Nat} {f : Fault}
    (hin : ∀ k, k < n → ∀ c, c < 3 → g.addr (p + k) c < s.platform.lmemBytes) (h : gatherPixels i g s p n = .error f) :
    ∃ k, k < n ∧ ∃ c, c < 3 ∧ s.lmem.read (g.addr (p + k) c) = none ∧ f = .unwrittenRead (g.addr (p + k) c) i := by
  induction n generalizing p with
  | zero => simp [gatherPixels] at h
  | succ n ih =>
    have e : ∀ k, p + (k + 1) = p + 1 + k := fun k => by omega
    cases hx : extractPixel i g p s with
    | error f' =>
      simp only [gatherPixels, hx, bind, Except.bind, Except.error.injEq] at h
      subst h
      obtain ⟨c, hc, hn, rfl⟩ := extractPixel_error (fun c hc => hin 0 (by omega) c hc) hx
      exact ⟨0, by omega, c, hc, hn, rfl⟩
    | ok t =>
      cases hr : gatherPixels i g s (p + 1) n with
      | ok q => simp [gatherPixels, hx, hr, bind, Except.bind] at h
      | error f' =>
        simp only [gatherPixels, hx, hr, bind, Except.bind, Except.error.injEq] at h
        subst h
        obtain ⟨k, hk, c, hc, hn, rfl⟩ := ih (fun k hk c hc => e k ▸ hin (k + 1) (by omega) c hc) hr
        exact ⟨k + 1, by omega, c, hc, by rwa [e k], by rw [e k]⟩

/-- WriteTriples over n pixels whose channels are written and in LMEM: it replaces LMEM and nothing else, channel c of the
k-th pixel takes element 3k + c, and every other byte stays. -/
theorem writeTriples_spec {i : Instr} {g : Grid} {q : List Slot} {s : State} {n p : Nat} (hg : 3 ≤ g.nch)
    (hq : q.length = 3 * n) (hin : ∀ k, k < n → ∀ c, c < 3 → g.addr (p + k) c < s.platform.lmemBytes)
    (hw : ∀ k, k < n → ∀ c, c < 3 → (s.lmem.read (g.addr (p + k) c)).isSome = true) :
    ∃ m, writeTriples i g p q s = .ok (setLmem m s) ∧
      (∀ k, k < n → ∀ c, c < 3 → m.read (g.addr (p + k) c) =
        (s.lmem.read (g.addr (p + k) c)).map fun v => embed v (q.getD (3 * k + c) 0)) ∧
      (∀ a, (∀ k, k < n → ∀ c, c < 3 → a ≠ g.addr (p + k) c) → m.read a = s.lmem.read a) ∧
      (s.lmem.wf = true → m.wf = true) ∧
      (s.lmem.within s.platform.lmemBytes = true → m.within s.platform.lmemBytes = true) := by
  induction n generalizing p q s with
  | zero =>
    obtain rfl : q = [] := List.length_eq_zero_iff.1 (by omega)
    exact ⟨s.lmem, rfl, by simp, by simp, id, id⟩
  | succ n ih =>
    match q, hq with
    | n0 :: n1 :: n2 :: q, hq =>
      obtain ⟨v0, h0⟩ := Option.isSome_iff_exists.1 (hw 0 (by omega) 0 (by omega))
      obtain ⟨v1, h1⟩ := Option.isSome_iff_exists.1 (hw 0 (by omega) 1 (by omega))
      obtain ⟨v2, h2⟩ := Option.isSome_iff_exists.1 (hw 0 (by omega) 2 (by omega))
      rw [Nat.add_zero] at h0 h1 h2
      have hp := embedPixel_of_read (i := i) (p := p) (n0 := n0) (n1 := n1) (n2 := n2)
        (fun c hc => hin 0 (by omega) c hc) h0 h1 h2
      have e : ∀ k, p + (k + 1) = p + 1 + k := fun k => by omega
      have ne : ∀ k c d, c < 3 → d < 3 → g.addr (p + 1 + k) c ≠ g.addr p d := fun k c d hc hd he => by
        have := (Grid.addr_inj (by omega) (by omega) he).1
        omega
      have hread : ∀ a, (∀ d, d < 3 → a ≠ g.addr p d) →
          (((s.lmem.write (g.addr p 0) (embed v0 n0)).write (g.addr p 1) (embed v1 n1)).write (g.addr p 2)
            (embed v2 n2)).read a = s.lmem.read a := fun a ha => by
        rw [read_write3, if_neg (ha 2 (by omega)), if_neg (ha 1 (by omega)), if_neg (ha 0 (by omega))]
      obtain ⟨m, hok, hch, hfr, hwf, hwi⟩ := ih (p := p + 1) (q := q)
        (s := setLmem (((s.lmem.write (g.addr p 0) (embed v0 n0)).write (g.addr p 1) (embed v1 n1)).write (g.addr p 2)
            (embed v2 n2)) s)
        (by simpa [Nat.mul_succ] using hq) (fun k hk c hc => e k ▸ hin (k + 1) (by omega) c hc)
        (fun k hk c hc => by
          rw [setLmem_lmem, hread _ (fun d hd => ne k c d hc hd)]
          exact e k ▸ hw (k + 1) (by omega) c hc)
      refine ⟨m, ?_, ?_, ?_, ?_, ?_⟩
      · simp only [writeTriples, hp, bind, Except.bind]
        exact hok
      · intro k hk c hc
        cases k with
        | zero =>
          rw [Nat.add_zero, hfr _ (fun k hk d hd => (ne k d c hd hc).symm), setLmem_lmem, read_write3]
          match c, hc with
          | 0, _ => rw [h0]; simp [Grid.addr]
          | 1, _ => rw [h1]; simp [Grid.addr]
          | 2, _ => rw [h2]; simp [Grid.addr]
        | succ k =>
          rw [e k, hch k (by omega) c hc, setLmem_lmem, hread _ (fun d hd => ne k c d hc hd),
            show 3 * (k + 1) + c = 3 * k + c + 3 by omega]
          simp
      · intro a ha
        rw [hfr a (fun k hk c hc => e k ▸ ha (k + 1) (by omega) c hc), setLmem_lmem,
          hread a (fun d hd => ha 0 (by omega) d hd)]
      · intro h
        exact hwf (Memory.write_wf _ _ (Memory.write_wf _ _ (Memory.write_wf _ _ h)))
      · intro h
        exact hwi (Memory.write_within _ (Memory.write_within _ (Memory.write_within _ h
          (by simpa using hin 0 (by omega) 0 (by omega))) (by simpa using hin 0 (by omega) 1 (by omega)))
          (by simpa using hin 0 (by omega) 2 (by omega)))

/-- WriteTriples faults only on an UNWRITTEN channel of one of its pixels. -/
theorem writeTriples_error {i : Instr} {g : Grid} {q : List Slot} {s : State} {n p : Nat} {f : Fault} (hg : 3 ≤ g.nch)
    (hq : q.length = 3 * n) (hin : ∀ k, k < n → ∀ c, c < 3 → g.addr (p + k) c < s.platform.lmemBytes)
    (h : writeTriples i g p q s = .error f) :
    ∃ k, k < n ∧ ∃ c, c < 3 ∧ s.lmem.read (g.addr (p + k) c) = none ∧ f = .unwrittenRead (g.addr (p + k) c) i := by
  induction n generalizing p q s with
  | zero =>
    obtain rfl : q = [] := List.length_eq_zero_iff.1 (by omega)
    simp [writeTriples] at h
  | succ n ih =>
    match q, hq with
    | n0 :: n1 :: n2 :: q, hq =>
      have e : ∀ k, p + (k + 1) = p + 1 + k := fun k => by omega
      have hin0 : ∀ c, c < 3 → g.addr p c < s.platform.lmemBytes := fun c hc => hin 0 (by omega) c hc
      cases hx : embedPixel i g p n0 n1 n2 s with
      | error f' =>
        simp only [writeTriples, hx, bind, Except.bind, Except.error.injEq] at h
        subst h
        obtain ⟨c, hc, hn, rfl⟩ := embedPixel_error hin0 hx
        exact ⟨0, by omega, c, hc, hn, rfl⟩
      | ok s' =>
        have hw : ∀ c, c < 3 → ∃ v, s.lmem.read (g.addr p c) = some v := embedPixel_ok_reads hin0 hx
        obtain ⟨v0, h0⟩ := hw 0 (by omega)
        obtain ⟨v1, h1⟩ := hw 1 (by omega)
        obtain ⟨v2, h2⟩ := hw 2 (by omega)
        rw [embedPixel_of_read hin0 h0 h1 h2] at hx
        cases hx
        simp only [writeTriples, embedPixel_of_read hin0 h0 h1 h2, bind, Except.bind] at h
        obtain ⟨k, hk, c, hc, hn, rfl⟩ := ih (p := p + 1) (by simpa [Nat.mul_succ] using hq)
          (fun k hk c hc => e k ▸ hin (k + 1) (by omega) c hc) h
        have ne : ∀ d, d < 3 → g.addr (p + 1 + k) c ≠ g.addr p d := fun d hd he => by
          have := (Grid.addr_inj (by omega) (by omega) he).1
          omega
        refine ⟨k + 1, by omega, c, hc, ?_, by rw [e k]⟩
        rw [setLmem_lmem, read_write3, if_neg (ne 2 (by omega)), if_neg (ne 1 (by omega)), if_neg (ne 0 (by omega))] at hn
        rwa [e k]

/-- A GatherAll that has ended had every channel of its pixels written. -/
theorem gatherPixels_ok_reads {i : Instr} {g : Grid} {s : State} {n p : Nat} {q : List Slot}
    (h : gatherPixels i g s p n = .ok q) :
    ∀ k, k < n → ∀ c, c < 3 → (s.lmem.read (g.addr (p + k) c)).isSome = true := by
  induction n generalizing p q with
  | zero => intro k hk; omega
  | succ n ih =>
    have e : ∀ k, p + (k + 1) = p + 1 + k := fun k => by omega
    cases hx : extractPixel i g p s with
    | error f => simp [gatherPixels, hx, bind, Except.bind] at h
    | ok t =>
      cases hr : gatherPixels i g s (p + 1) n with
      | error f => simp [gatherPixels, hx, hr, bind, Except.bind] at h
      | ok r =>
        intro k hk c hc
        cases k with
        | zero => exact extractPixel_ok_reads hx c hc
        | succ k => rw [e k]; exact ih hr k (by omega) c hc

/-- A WriteTriples that has ended had every channel of its pixels written. -/
theorem writeTriples_ok_reads {i : Instr} {g : Grid} {q : List Slot} {s s' : State} {n p : Nat} (hg : 3 ≤ g.nch)
    (hq : q.length = 3 * n) (hin : ∀ k, k < n → ∀ c, c < 3 → g.addr (p + k) c < s.platform.lmemBytes)
    (h : writeTriples i g p q s = .ok s') :
    ∀ k, k < n → ∀ c, c < 3 → (s.lmem.read (g.addr (p + k) c)).isSome = true := by
  induction n generalizing p q s with
  | zero => intro k hk; omega
  | succ n ih =>
    match q, hq with
    | n0 :: n1 :: n2 :: q, hq =>
      have e : ∀ k, p + (k + 1) = p + 1 + k := fun k => by omega
      have hin0 : ∀ c, c < 3 → g.addr p c < s.platform.lmemBytes := fun c hc => hin 0 (by omega) c hc
      cases hx : embedPixel i g p n0 n1 n2 s with
      | error f => simp [writeTriples, hx, bind, Except.bind] at h
      | ok s1 =>
        have hw := embedPixel_ok_reads hin0 hx
        obtain ⟨v0, h0⟩ := hw 0 (by omega)
        obtain ⟨v1, h1⟩ := hw 1 (by omega)
        obtain ⟨v2, h2⟩ := hw 2 (by omega)
        rw [embedPixel_of_read hin0 h0 h1 h2] at hx
        cases hx
        simp only [writeTriples, embedPixel_of_read hin0 h0 h1 h2, bind, Except.bind] at h
        intro k hk c hc
        cases k with
        | zero =>
          obtain ⟨v, hv⟩ := hw c hc
          simpa using Option.isSome_iff_exists.2 ⟨v, hv⟩
        | succ k =>
          have := ih (p := p + 1) (by simpa [Nat.mul_succ] using hq)
            (fun k hk c hc => e k ▸ hin (k + 1) (by omega) c hc) h k (by omega) c hc
          have ne : ∀ d, d < 3 → g.addr (p + 1 + k) c ≠ g.addr p d := fun d hd he => by
            have := (Grid.addr_inj (by omega) (by omega) he).1
            omega
          rw [setLmem_lmem, read_write3, if_neg (ne 2 (by omega)), if_neg (ne 1 (by omega)),
            if_neg (ne 0 (by omega))] at this
          rwa [e k]

end Sys2Proof.Machine
end

