-- ==== Sys2Proof/Laws/Sequences.lean ====
section
/-! SUPPORT. The unit functions on sequences, element by element: nibbles, padding, reassembly, termination. -/

namespace Sys2Proof.Machine

/-- Padding ends at a multiple of 3. -/
theorem add_padCount (n : Nat) : n + padCount n = 3 * ((n + 2) / 3) := by
  unfold padCount
  omega

/-- The length of an unpacked payload (41 R122). -/
theorem nibbleSeq_length (u : List Byte) : (nibbleSeq u).length = 2 * (u.length + 1) := by
  unfold nibbleSeq terminated
  generalize hw : u ++ [0x00] = w
  have hl : w.length = u.length + 1 := by simp [← hw]
  rw [← hl]
  clear hw hl
  induction w with
  | nil => rfl
  | cons b w ih =>
    simp only [List.flatMap_cons, unpack, List.length_append, List.length_cons, List.length_nil, ih]
    omega

/-- The elements of an unpacked sequence of bytes. -/
theorem flatMap_unpack_getD (w : List Byte) (k : Nat) :
    (w.flatMap unpack).getD k 0 =
      if k % 2 = 0 then highNibble (w.getD (k / 2) 0) else lowNibble (w.getD (k / 2) 0) := by
  induction w generalizing k with
  | nil => simp [highNibble, lowNibble]
  | cons b w ih =>
    match k with
    | 0 => simp [unpack]
    | 1 => simp [unpack]
    | k + 2 =>
      have h1 : (k + 2) % 2 = k % 2 := by omega
      have h2 : (k + 2) / 2 = k / 2 + 1 := by omega
      have h3 : ((b :: w).flatMap unpack).getD (k + 2) 0 = (w.flatMap unpack).getD k 0 := by
        simp [unpack, List.getD_eq_getElem?_getD]
      rw [h3, ih k, h1, h2]
      simp [List.getD_eq_getElem?_getD]

/-- The elements of a payload's nibble sequence (41 R122); beyond it the default 0 stands. -/
theorem nibbleSeq_getD (u : List Byte) (k : Nat) :
    (nibbleSeq u).getD k 0 =
      if k % 2 = 0 then highNibble (u.getD (k / 2) 0) else lowNibble (u.getD (k / 2) 0) := by
  have h : (terminated u).getD (k / 2) 0 = u.getD (k / 2) 0 := by
    simp only [terminated, List.getD_eq_getElem?_getD, List.getElem?_append]
    split
    · rfl
    · rename_i hlt
      rw [List.getElem?_eq_none (l := u) (by omega)]
      cases k / 2 - u.length <;> simp
  rw [nibbleSeq, flatMap_unpack_getD, h]

/-- The length of a padded sequence (42 R141). -/
theorem padSeq_length (q : List Slot) : (padSeq q).length = 3 * ((q.length + 2) / 3) := by
  simp [padSeq, add_padCount]

/-- Padding adds zeros only (42 R141). -/
theorem padSeq_getD (q : List Slot) (k : Nat) : (padSeq q).getD k 0 = q.getD k 0 := by
  simp only [padSeq, List.getD_eq_getElem?_getD, List.getElem?_append]
  split
  · rfl
  · rename_i h
    rw [List.getElem?_eq_none (l := q) (by omega)]
    simp [List.getElem?_replicate]
    split <;> rfl

/-- The length of a reassembled sequence (44 R182). -/
theorem bytesOf_length (q : List Slot) : (bytesOf q).length = (q.length + 1) / 2 := by
  have key : ∀ n, ∀ t : List Slot, t.length = 2 * n → (repackPairs t).length = n := by
    intro n
    induction n with
    | zero => intro t ht; obtain rfl : t = [] := List.length_eq_zero_iff.1 (by omega); rfl
    | succ n ih =>
      intro t ht
      match t, ht with
      | s0 :: s1 :: t, ht => simp [repackPairs, ih t (by simpa [Nat.mul_succ] using ht)]
  unfold bytesOf oddPad
  split
  · exact key _ _ (by simp; omega)
  · exact key _ _ (by omega)

/-- Byte j of a reassembled sequence; a missing last slot is the zero of OddPad (44 R180, R182). -/
theorem bytesOf_getElem? (q : List Slot) (j : Nat) (hj : j < (q.length + 1) / 2) :
    (bytesOf q)[j]? = some (repack (q.getD (2 * j) 0) (q.getD (2 * j + 1) 0)) := by
  have key : ∀ j, ∀ t : List Slot, 2 * j + 1 < t.length →
      (repackPairs t)[j]? = some (repack (t.getD (2 * j) 0) (t.getD (2 * j + 1) 0)) := by
    intro j
    induction j with
    | zero =>
      intro t ht
      match t, ht with
      | s0 :: s1 :: t, _ => simp [repackPairs]
    | succ j ih =>
      intro t ht
      match t, ht with
      | s0 :: s1 :: t, ht =>
        have := ih t (by simp at ht; omega)
        simpa [repackPairs, Nat.mul_succ, List.getD_eq_getElem?_getD] using this
  have hpad : ∀ k, (oddPad q).getD k 0 = q.getD k 0 := by
    intro k
    unfold oddPad
    split
    · simp only [List.getD_eq_getElem?_getD, List.getElem?_append]
      split
      · rfl
      · rename_i h
        rw [List.getElem?_eq_none (l := q) (by omega)]
        cases k - q.length <;> simp
    · rfl
  have hlen : 2 * j + 1 < (oddPad q).length := by
    unfold oddPad
    split
    · simp; omega
    · omega
  rw [bytesOf, key j _ hlen, hpad, hpad]

/-- The bytes before the first 0x00 are an initial part of the sequence, and none of them is 0x00 (45 R201). -/
theorem terminate_take (bs : List Byte) :
    (terminate bs).1 = bs.take (terminate bs).1.length ∧ ∀ b ∈ (terminate bs).1, b ≠ 0 := by
  induction bs with
  | nil => simp [terminate]
  | cons b bs ih =>
    unfold terminate
    split
    · simp
    · rename_i hb
      refine ⟨by simpa using ih.1, fun c hc => ?_⟩
      rcases List.mem_cons.1 hc with rfl | hc
      · simpa [isTerm] using hb
      · exact ih.2 c hc

/-- Where the result is shorter than the sequence, the byte that follows it is the terminator (45 R201). -/
theorem terminate_found (bs : List Byte) :
    (terminate bs).1.length ≤ bs.length ∧ ((terminate bs).2 = true ↔ (terminate bs).1.length < bs.length) ∧
      ((terminate bs).1.length < bs.length → bs[(terminate bs).1.length]? = some 0) := by
  induction bs with
  | nil => simp [terminate]
  | cons b bs ih =>
    unfold terminate
    split
    · rename_i hb
      simpa [isTerm] using hb
    · simpa using ih

end Sys2Proof.Machine
end

