-- ==== Sys2Proof/Tests/Slice0.lean ====
section
/-! SUPPORT. Small tests, each about one line, one word or one step; expected values are the spec's (95_test_vectors, named
in each comment). The theorems named `test_witness_…` show, for each statement with hypotheses, a state and operands that
meet them. -/

namespace Sys2Proof.Tests

open Sys2Proof Sys2Proof.Machine

/-! WellFormed: a line that each check refuses, and one at the edge of its range (30_encoding R98). -/

theorem test_wf_unpk : (AsmLine.unpk 256).wf = false ∧ (AsmLine.unpk 255).wf = true := by decide

theorem test_wf_padc : (AsmLine.padc 0x1000000).wf = false ∧ (AsmLine.padc 0xFFFFFF).wf = true := by decide

theorem test_wf_dpix :
    (AsmLine.dpix 16 0 0).wf = false ∧ (AsmLine.dpix 0 16 0).wf = false ∧ (AsmLine.dpix 0 0 16).wf = false
      ∧ (AsmLine.dpix 15 15 15).wf = true := by decide

theorem test_wf_rpk :
    (AsmLine.rpk 256 0).wf = false ∧ (AsmLine.rpk 0 256).wf = false ∧ (AsmLine.rpk 255 255).wf = true := by decide

theorem test_wf_tdet : (AsmLine.tdet 256).wf = false ∧ (AsmLine.tdet 255).wf = true := by decide

theorem test_wf_word : (AsmLine.word (2 ^ 32)).wf = false ∧ (AsmLine.word 0xFFFFFFFF).wf = true := by decide

theorem test_platform_wf :
    Platform.wf ⟨0, 0, 128⟩ = false ∧ Platform.wf ⟨0, 0, 256⟩ = true ∧ Platform.wf ⟨0, 0, 384⟩ = false
      ∧ Platform.wf ⟨0, 0, 0x1000000⟩ = true ∧ Platform.wf ⟨0, 0, 0x2000000⟩ = false := by decide

/-! Decoding: one word of each command, bit by bit from the formats of 30_encoding R91, R92, R94. -/

theorem test_decode_nop : decode 0b0000_0000_0000_0000_0000_0000_0000_0000 = .ok .nop := by decide

theorem test_decode_enc : decode 0b0001_0000_0000_0000_0000_0000_0000_0000 = .ok .enc := by decide

theorem test_decode_dec : decode 0b0010_0000_0000_0000_0000_0000_0000_0000 = .ok .dec := by decide

theorem test_decode_capq : decode 0b0011_0000_0000_0000_0000_0000_0000_0000 = .ok .capq := by decide

theorem test_decode_unpk : decode 0b0100_0000_0000_0000_0000_0000_1111_0001 = .ok (.unpk 0xF1) := by decide

theorem test_decode_padc : decode 0b0101_0000_1000_0000_0000_0000_0000_0001 = .ok (.padc 0x800001) := by decide

theorem test_decode_dpix : decode 0b0110_0000_0000_0000_0000_1000_0100_0010 = .ok (.dpix 8 4 2) := by decide

theorem test_decode_gpix : decode 0b0111_0000_0000_0000_0000_0000_0000_0000 = .ok .gpix := by decide

theorem test_decode_rpk : decode 0b1000_0000_0000_0000_1000_0001_0100_0010 = .ok (.rpk 0x81 0x42) := by decide

theorem test_decode_tdet : decode 0b1001_0000_0000_0000_0000_0000_1000_0000 = .ok (.tdet 0x80) := by decide

/-- A reserved opcode, a SUB bit and an MBZ bit of each format, by name (30_encoding R96; 95 2.1 to 2.8). -/
theorem test_decode_illegal :
    decode 0xA0000000 = .error .reservedOpcode ∧ decode 0xF0000000 = .error .reservedOpcode
      ∧ decode 0x0F000000 = .error .subNotZero ∧ decode 0x51000000 = .error .subNotZero
      ∧ decode 0x00000001 = .error .mbzBitSet ∧ decode 0x30800000 = .error .mbzBitSet
      ∧ decode 0x40000100 = .error .mbzBitSet ∧ decode 0x60001000 = .error .mbzBitSet
      ∧ decode 0x80010000 = .error .mbzBitSet ∧ decode 0x90000100 = .error .mbzBitSet := by decide

/-- The assembler's words (30_encoding R98; 95 2.4, 2.6). -/
theorem test_assemble :
    assemble (.dpix 4 1 4) = some 0x60000414 ∧ assemble (.rpk 0x14 2) = some 0x80001402
      ∧ assemble (.word 0x60001000) = some 0x60001000 ∧ assemble (.tdet 256) = none := by decide

/-- Text lines (30_encoding R98): the comma with optional spaces, hexadecimal, and lower case only. -/
theorem test_parse :
    parseLine ['d', 'p', 'i', 'x', ' ', '4', ',', ' ', '1', ',', '4'] = some (.dpix 4 1 4)
      ∧ parseLine ['u', 'n', 'p', 'k', ' ', '0', 'x', '4', '1'] = some (.unpk 0x41)
      ∧ parseLine ['N', 'O', 'P'] = none ∧ parseLine ['u', 'n', 'p', 'k'] = none := by decide

/-- The table's word through the fetch, at reset: `padc 4` is the first command to run (95 L1-5). -/
theorem test_fetch_at_reset :
    step (State.reset.withFetchWord 32 0x50000004) =
      .next { State.reset with cmdLatch := 0x50000004, res0 := 6, res1 := 2, done := true } := by rfl

/-! Small states: the block of 95 section 0, with LMEM_BYTES = 256. -/

/-- A platform with 256 bytes of LMEM. -/
def board : Platform := ⟨0x10000, 0x20000, 256⟩

/-- The block after power-on. -/
def idle : State := State.powerOn board

/-- Bytes at rising addresses. -/
def cellsAt (a : Nat) : List Byte → Memory
  | [] => []
  | b :: bs => (a, b) :: cellsAt (a + 1) bs

/-- The 2 by 1 grid of 95 2.4 at 0x40, four channels. -/
def grid2 : State :=
  { idle with gridBase := 0x40, gridW := 2, gridH := 1, outBase := 0x80, outMax := 16,
              lmem := cellsAt 0x40 [0xAB, 0xCD, 0xEF, 0x77, 0x12, 0x34, 0x56, 0x78] }

/-- The same grid with the payload "AB" at 0 (95 P1). -/
def ab : State := { grid2 with payLen := 2, lmem := cellsAt 0 [0x41, 0x42] ++ grid2.lmem }

/-- The grid after ENC of "AB" (95 P1). -/
def encoded : State := { grid2 with lmem := cellsAt 0x40 [0xA4, 0xC1, 0xE4, 0x77, 0x12, 0x30, 0x50, 0x78] }

/-- A block with a command pending. -/
def pending (w : Word) : State := { idle with cmdLatch := w, busy := true }

/-- A property of the next state, false where there is none. -/
def nextIs (o : Host.Outcome State Fault Refusal) (f : State → Bool) : Bool :=
  match o with
  | .next t => f t
  | _ => false

/-- An outcome that is that fault. -/
def faultIs (o : Host.Outcome State Fault Refusal) (f : Fault) : Bool :=
  match o with
  | .fault g => g == f
  | _ => false

/-- An outcome that is that refusal. -/
def refusedIs (o : Host.Outcome State Fault Refusal) (r : Refusal) : Bool :=
  match o with
  | .refused q => q == r
  | _ => false

/-! Commands. -/

/-- 95 2.8. -/
theorem test_nop : nextIs (exec .nop idle) (fun t => statusWord t == 0x00000002) = true := by decide

/-- 95 2.1. -/
theorem test_unpk_halves :
    nextIs (exec (.unpk 0x41) idle) (fun t => t.res0 == 0x0401 && statusWord t == 0x00000002) = true := by decide

/-- 95 2.1. -/
theorem test_unpk_high_only : nextIs (exec (.unpk 0xF0) idle) (fun t => t.res0 == 0x0F00) = true := by decide

/-- 95 2.2. -/
theorem test_padc_one :
    nextIs (exec (.padc 1) idle) (fun t => t.res0 == 3 && t.res1 == 2 && statusWord t == 0x00000002) = true := by decide

/-- 95 2.2, the top of the count. -/
theorem test_padc_top :
    nextIs (exec (.padc 0xFFFFFE) idle) (fun t => t.res0 == 0x00FFFFFF && t.res1 == 1) = true := by decide

/-- 95 2.6: the bits of S0 above its low nibble fall off. -/
theorem test_rpk_high_slot : nextIs (exec (.rpk 0x14 2) idle) (fun t => t.res0 == 0x42) = true := by decide

/-- 95 2.6: the high nibble of S1 is masked. -/
theorem test_rpk_low_slot : nextIs (exec (.rpk 4 0xF2) idle) (fun t => t.res0 == 0x42) = true := by decide

/-- 95 2.7. -/
theorem test_tdet_zero :
    nextIs (exec (.tdet 0) idle) (fun t => t.res0 == 1 && statusWord t == 0x00000022) = true := by decide

/-- 95 2.7. -/
theorem test_tdet_sign_bit :
    nextIs (exec (.tdet 0x80) { idle with termFound := true })
      (fun t => t.res0 == 0 && statusWord t == 0x00000002) = true := by decide

/-- 95 2.3: L = 3 in a 2 by 1 grid does not fit. -/
theorem test_capq_no_fit :
    nextIs (exec .capq { grid2 with payLen := 3, gridNch := 3 })
      (fun t => t.res0 == 3 && t.res1 == 9 && statusWord t == 0x00000002) = true := by decide

/-- 95 2.3: CONFIG wins over ADDR_RANGE. -/
theorem test_capq_config :
    nextIs (exec .capq { idle with gridW := 1000, gridH := 1, gridNch := 2 })
      (fun t => statusWord t == 0x00000206 && t.errInfo == 2 && t.res0 == 0) = true := by decide

/-- 95 2.4, first row. -/
theorem test_dpix :
    nextIs (exec (.dpix 4 1 4) grid2)
      (fun t => t.lmem == cellsAt 0x40 [0xA4, 0xC1, 0xE4, 0x77, 0x12, 0x34, 0x56, 0x78] && t.pixIdx == 1
        && statusWord t == 0x00000002) = true := by decide

/-- 95 2.4, PIX_RANGE. -/
theorem test_dpix_range :
    nextIs (exec (.dpix 1 2 3) { grid2 with pixIdx := 2 })
      (fun t => t.lmem == grid2.lmem && t.pixIdx == 2 && statusWord t == 0x00000606 && t.errInfo == 2) = true := by
  decide

/-- 95 2.5, first row. -/
theorem test_gpix :
    nextIs (exec .gpix { grid2 with pixIdx := 1 })
      (fun t => t.res0 == 0x00020406 && t.pixIdx == 2 && statusWord t == 0x00000002) = true := by decide

/-- 95 2.5: an empty grid. -/
theorem test_gpix_empty_grid :
    nextIs (exec .gpix { grid2 with gridW := 0, gridH := 5 })
      (fun t => statusWord t == 0x00000606 && t.errInfo == 0) = true := by decide

/-- 95 2.9, first row. -/
theorem test_enc :
    nextIs (exec .enc ab)
      (fun t => t.lmem == cellsAt 0 [0x41, 0x42] ++ encoded.lmem && t.res0 == 2 && t.res1 == 6
        && statusWord t == 0x00000012) = true := by decide

/-- 95 2.9: the payload's second byte is the grid's first. -/
theorem test_enc_overlap :
    nextIs (exec .enc { ab with payBase := 0x3F })
      (fun t => t.lmem == ab.lmem && statusWord t == 0x00000406 && t.errInfo == 0x12) = true := by decide

/-- 95 2.10, first row. -/
theorem test_dec :
    nextIs (exec .dec encoded)
      (fun t => t.lmem == encoded.lmem ++ cellsAt 0x80 [0x41, 0x42] && t.res0 == 2 && t.res1 == 2
        && statusWord t == 0x00000022) = true := by decide

/-- 95 2.10: no terminator, truncated to two bytes. -/
theorem test_dec_truncated :
    nextIs (exec .dec { grid2 with gridNch := 3, outMax := 2, lmem := cellsAt 0x40 [0x34, 0x35, 0x36, 0x37, 0x38, 0x39] })
      (fun t => t.lmem == cellsAt 0x40 [0x34, 0x35, 0x36, 0x37, 0x38, 0x39] ++ cellsAt 0x80 [0x45, 0x67]
        && t.res0 == 3 && t.res1 == 2 && statusWord t == 0x00000042) = true := by decide

/-! Host-side vectors (95 2.11). -/

/-- H-1: the overrun, and then the illegal word it could not replace. -/
theorem test_h1 :
    statusWord (writeReg .cmd 0x40000055 (pending 0xA0000000)) = 0x00000705
      ∧ nextIs (coreStep (writeReg .cmd 0x40000055 (pending 0xA0000000)))
        (fun t => statusWord t == 0x0000070E && t.errInfo == 0x40000055) = true := by decide

/-- H-2: an RWL write while BUSY = 1. -/
theorem test_h2 : readReg .payLen (writeReg .payLen 5 (pending 0xA0000000)) = 0 := by decide

/-- The state whose STATUS is 0x0000070E, with ERR_INFO as in H-1. -/
def afterOverrun : State :=
  { idle with done := true, err := true, errOvf := true, cause := 7, errInfo := 0x40000055 }

/-- H-3. -/
theorem test_h3 :
    statusWord (writeReg .status 0x00000004 afterOverrun) = 0x0000000A
      ∧ readReg .errInfo (writeReg .status 0x00000004 afterOverrun) = 0 := by decide

/-- H-4. -/
theorem test_h4 :
    statusWord (writeReg .status 0xFFFFFFFF { idle with done := true, capOk := true, termFound := true }) = 0x00000030 := by
  decide

/-- H-5 and H-6. -/
theorem test_h5_h6 :
    readWindow 0x80 idle = 0 ∧ writeWindow 0x80 7 idle = idle ∧ readReg .id idle = 0x4E550001
      ∧ readReg .lmemSize idle = 0x00000100 := by decide

/-- H-7: the reset input keeps LMEM. -/
theorem test_h7 :
    nextIs (step { encoded with res0 := 2, done := true, script := [.reset] })
      (fun t => t.gridNch == 4 && statusWord t == 0 && t.res0 == 0 && t.lmem == encoded.lmem) = true := by decide

/-- H-8: pixel 1's B byte is UNWRITTEN. -/
theorem test_h8 :
    faultIs (exec .dec { grid2 with lmem := cellsAt 0x40 [1, 2, 3, 4, 5, 6] }) (.unwrittenRead 0x46 .dec) = true := by
  decide

/-- H-9: a misaligned word and a byte out of range. -/
theorem test_h9 :
    refusedIs (step { grid2 with script := [rwLmem board 0x41] }) (.lmemBusError 0x41 4) = true
      ∧ refusedIs (step { idle with script := [.host (.read (0x10000 + 1) 4)] }) (.registerBusError 1 4) = true := by
  decide

/-- H-10: the byte read is held while ENC is pending, and then returns the encoded byte. -/
theorem test_h10 :
    hostHeld (.read (0x20000 + 0x40) 1) { ab with cmdLatch := 0x10000000, busy := true } = true
      ∧ nextIs (step { encoded with script := [rbLmem board 0x40] }) (fun t => t.reads == [0xA4]) = true := by decide

/-- H-11. -/
theorem test_h11 :
    nextIs (coreStep { idle with ctrlIeDone := true, busy := true }) (fun t => irq t && statusWord t == 0x00000002) = true
      ∧ irq (writeReg .status 2 { idle with ctrlIeDone := true, done := true }) = false := by decide

/-- 95 P1: the little-endian word of pixel 0. -/
theorem test_little_endian :
    nextIs (step { idle with script := [wwLmem board 0x40 0x77EFCDAB] })
      (fun t => t.lmem == cellsAt 0x40 [0xAB, 0xCD, 0xEF, 0x77]) = true := by decide

/-! Witnesses: a state and operands that meet the hypotheses of each statement, at the edges of their ranges. -/

theorem test_witness_encodeOfDecode : decode 0x60000ABC = .ok (.dpix 10 11 12) := by decide

/-- A decodable and an illegal word pending; an empty script, a core turn, and the last byte and the last word of LMEM next. -/
theorem test_witness_stepRunsDecodedCommand :
    (pending 0x7000_0000).busy = true ∧ decode (pending 0x7000_0000).cmdLatch = .ok .gpix
      ∧ decode (pending 0xA000_0000).cmdLatch = .error .reservedOpcode ∧ (pending 0xA000_0000).script = []
      ∧ nextIs (step (pending 0xA000_0000)) (fun t => t.cause == 1) = true
      ∧ nextIs (step { pending 0xA000_0000 with script := [.core] }) (fun t => t.cause == 1 && t.script == []) = true
      ∧ accessAddr (.read (0x20000 + 255) 1) = board.lmemBase + 255 ∧ 255 < board.lmemBytes
      ∧ ¬ AtRegWindow board (0x20000 + 255)
      ∧ accessBytes (.write (0x20000 + 252) 4 0) = 4 ∧ 252 % 4 = 0 ∧ 252 + 4 ≤ board.lmemBytes
      ∧ ¬ AtRegWindow board (0x20000 + 252) := by decide

theorem test_witness_stepAfterFetchWord :
    0x9000_00FF < 2 ^ 32 ∧ decodeTableWord 32 0x9000_00FF = some (.tdet 0xFF) := by decide

theorem test_witness_illegalWordIsRecorded :
    decode 0xFFFFFFFF = .error .reservedOpcode ∧ idle.busy = false ∧ ¬ AtLmemWindow board (board.regBase + 0x0C)
      ∧ (pending 0xFFFFFFFF).cmdLatch = 0xFFFFFFFF ∧ (pending 0xFFFFFFFF).busy = true
      ∧ nextIs (step { idle with script := [.host (.write (board.regBase + 0x0C) 4 0xFFFFFFFF)] })
        (fun t => t.busy && t.cmdLatch == 0xFFFFFFFF) = true := by decide

theorem test_witness_idleBlockKeepsState : idle.busy = false ∧ idle.script = [] := by decide

/-- The payload ends exactly at LMEM_BYTES (95 2.3). -/
theorem test_witness_capqReportsCapacity :
    PayloadGridOk { grid2 with payBase := 250, payLen := 6 } ∧ PayloadGridOk idle := by decide

/-- The last pixel of the grid. -/
theorem test_witness_pixelCommands :
    PixelOk { grid2 with pixIdx := 1 } ∧ PixelWritten { grid2 with pixIdx := 1 } := by decide

/-- A grid of exactly the required pixels. -/
theorem test_witness_encEmbedsPayload :
    PayloadGridOk ab ∧ requiredPixels ab = (gridOf ab).pixels ∧ PayloadWritten ab
      ∧ ChannelsWritten ab (requiredPixels ab) := by decide

/-- The empty payload fits in one pixel (95 L1-2). -/
theorem test_witness_encEmbedsEmptyPayload :
    PayloadGridOk { grid2 with gridW := 1 } ∧ requiredPixels { grid2 with gridW := 1 } = 1
      ∧ PayloadWritten { grid2 with gridW := 1 } ∧ ChannelsWritten { grid2 with gridW := 1 } 1 := by decide

theorem test_witness_decRecoversBytes :
    GridOutputOk encoded ∧ ChannelsWritten encoded (gridOf encoded).pixels := by decide

theorem test_witness_encThenDecRoundTrip :
    PayloadGridOk ab ∧ requiredPixels ab ≤ (gridOf ab).pixels ∧ RegionOk ab (outputRegion ab)
      ∧ ¬ RegionsOverlap (gridOf ab).region (outputRegion ab) ∧ PayloadWritten ab
      ∧ ChannelsWritten ab (gridOf ab).pixels ∧ (∀ j, j < ab.payLen.toNat → byteOr0 ab (ab.payBase.toNat + j) ≠ 0)
      ∧ ab.payLen.toNat ≤ ab.outMax.toNat := by decide

/-- One state per clause (95 2.9): CONFIG, a payload one byte too long for LMEM, a grid one byte too high, and a payload
that begins at the grid's last byte. -/
theorem test_witness_encAndCapqErrorOrder :
    ¬ ConfigOk { ab with gridNch := 5 }
      ∧ (ConfigOk { ab with payBase := 255 } ∧ ¬ RegionOk { ab with payBase := 255 } (payloadRegion { ab with payBase := 255 }))
      ∧ (ConfigOk { ab with gridBase := 0xF9 }
        ∧ RegionOk { ab with gridBase := 0xF9 } (payloadRegion { ab with gridBase := 0xF9 })
        ∧ ¬ RegionOk { ab with gridBase := 0xF9 } (gridOf { ab with gridBase := 0xF9 }).region)
      ∧ (ConfigOk { ab with payBase := 0x47 }
        ∧ RegionOk { ab with payBase := 0x47 } (payloadRegion { ab with payBase := 0x47 })
        ∧ RegionOk { ab with payBase := 0x47 } (gridOf { ab with payBase := 0x47 }).region
        ∧ RegionsOverlap (payloadRegion { ab with payBase := 0x47 }) (gridOf { ab with payBase := 0x47 }).region) := by
  decide

/-- One pixel short. -/
theorem test_witness_encCapacityError :
    PayloadGridOk { ab with gridW := 1 } ∧ (gridOf { ab with gridW := 1 }).pixels < requiredPixels { ab with gridW := 1 } := by
  decide

/-- One state per clause (95 2.10): CONFIG, a grid one byte too high, an output one byte too long, and an output at the
grid's last byte. -/
theorem test_witness_decErrorOrder :
    ¬ ConfigOk { grid2 with gridNch := 0 }
      ∧ (ConfigOk { grid2 with gridBase := 0xF9 }
        ∧ ¬ RegionOk { grid2 with gridBase := 0xF9 } (gridOf { grid2 with gridBase := 0xF9 }).region)
      ∧ (ConfigOk { grid2 with outBase := 0xF8, outMax := 9 }
        ∧ RegionOk { grid2 with outBase := 0xF8, outMax := 9 } (gridOf { grid2 with outBase := 0xF8, outMax := 9 }).region
        ∧ ¬ RegionOk { grid2 with outBase := 0xF8, outMax := 9 } (outputRegion { grid2 with outBase := 0xF8, outMax := 9 }))
      ∧ (ConfigOk { grid2 with outBase := 0x47, outMax := 1 }
        ∧ RegionOk { grid2 with outBase := 0x47, outMax := 1 } (gridOf { grid2 with outBase := 0x47, outMax := 1 }).region
        ∧ RegionOk { grid2 with outBase := 0x47, outMax := 1 } (outputRegion { grid2 with outBase := 0x47, outMax := 1 })
        ∧ RegionsOverlap (gridOf { grid2 with outBase := 0x47, outMax := 1 }).region
          (outputRegion { grid2 with outBase := 0x47, outMax := 1 })) := by decide

/-- One state per clause: the last clause at PIX_IDX = W H. -/
theorem test_witness_pixelCommandErrorOrder :
    ¬ ConfigOk { grid2 with gridNch := 5 }
      ∧ (ConfigOk { grid2 with gridBase := 0xF9 }
        ∧ ¬ RegionOk { grid2 with gridBase := 0xF9 } (gridOf { grid2 with gridBase := 0xF9 }).region)
      ∧ (ConfigOk { grid2 with pixIdx := 2 } ∧ RegionOk { grid2 with pixIdx := 2 } (gridOf { grid2 with pixIdx := 2 }).region
        ∧ (gridOf { grid2 with pixIdx := 2 }).pixels ≤ ({ grid2 with pixIdx := 2 } : State).pixIdx.toNat) := by decide

theorem test_witness_errorsArePrecise :
    ¬ CommandOk .gpix { grid2 with pixIdx := 2 }
      ∧ nextIs (exec .gpix { grid2 with pixIdx := 2 }) (fun t => t.err) = true := by
  refine ⟨?_, by decide⟩
  show ¬ PixelOk { grid2 with pixIdx := 2 }
  decide

theorem test_witness_capqPredictsEnc :
    ab.err = false ∧ nextIs (exec .capq ab) (fun t => !t.err && t.capOk) = true
      ∧ nextIs (exec .capq { ab with gridW := 1 }) (fun t => !t.err && !t.capOk) = true := by decide

theorem test_witness_firstErrorIsKept : idle.err = false ∧ afterOverrun.err = true := by decide

/-- A fault that each faulting command can take: payload, grid, pixel. -/
theorem test_witness_onlyUnwrittenReadsFault :
    faultIs (exec .enc { ab with payBase := 2 }) (.unwrittenRead 2 .enc) = true
      ∧ faultIs (exec (.dpix 0 0 0) { grid2 with lmem := [] }) (.unwrittenRead 0x40 (.dpix 0 0 0)) = true
      ∧ faultIs (exec .gpix { grid2 with lmem := cellsAt 0x40 [1, 2] }) (.unwrittenRead 0x42 .gpix) = true := by decide

/-- The last payload byte is UNWRITTEN. -/
theorem test_witness_unwrittenFootprintFaults :
    CommandOk .enc { ab with payBase := 1 } ∧ mayRead .enc { ab with payBase := 1 } 2
      ∧ ({ ab with payBase := 1 } : State).lmem.read 2 = none := by
  refine ⟨?_, .inl (by decide), by decide⟩
  show PayloadGridOk { ab with payBase := 1 } ∧ requiredPixels { ab with payBase := 1 } ≤ _
  decide

/-- DEC on the encoded grid meets its conditions on a written footprint. -/
theorem test_witness_commandCompletesWhenOk :
    CommandOk .dec encoded ∧ ∀ a, mayRead .dec encoded a → (encoded.lmem.read a).isSome = true := by
  refine ⟨show GridOutputOk encoded by decide, ?_⟩
  rintro a ⟨p, hp, c, hc, rfl⟩
  exact test_witness_decRecoversBytes.2 p hp c hc

/-- A command ends in a next state that it changes: the hypothesis of the frames. -/
theorem test_witness_frames :
    nextIs (exec .enc ab) (fun t => t.res0 != ab.res0 && t.lmem != ab.lmem && t.capOk) = true := by decide

theorem test_witness_encChannelIsolation :
    PayloadGridOk ab ∧ requiredPixels ab ≤ (gridOf ab).pixels ∧ (gridOf ab).nch = 4
      ∧ nextIs (exec .enc ab) (fun t => t.lmem.read 0x43 == some 0x77) = true := by decide

/-- An accepted word, an overrun, and a STATUS write while BUSY = 1: each a step. -/
theorem test_witness_cmdAndStatusWrites :
    nextIs (step { idle with script := .host (.write (board.regBase + 0x0C) 4 0x10000000) :: [] }) (fun t => t.busy && t.cmdLatch == 0x10000000) = true
      ∧ nextIs (step { pending 0 with script := .host (.write (board.regBase + 0x0C) 4 5) :: [] }) (fun t => t.cause == 7 && t.cmdLatch == 0) = true
      ∧ nextIs (step { pending 0 with err := true, cause := 1, script := .host (.write (board.regBase + 0x08) 4 4) :: [] })
        (fun t => t.busy && !t.err && t.cause == 0) = true
      ∧ ¬ AtLmemWindow board (board.regBase + 0x08) ∧ ¬ AtLmemWindow board (board.regBase + 0x0C) := by decide

/-- Each writer of the error record: a command, an overrun, a host clear, a reset. -/
theorem test_witness_errorRecordWriters :
    nextIs (step (pending 0xA0000000)) (fun t => t.cause == 1) = true
      ∧ nextIs (step { pending 0 with script := [wrReg board .cmd 5] }) (fun t => t.cause == 7) = true
      ∧ nextIs (step { afterOverrun with script := [.host (.write (board.regBase + 0x08) 4 0xE)] }) (fun t => t.cause == 0) = true
      ∧ nextIs (step { afterOverrun with script := [.reset] }) (fun t => t.cause == 0) = true := by decide

/-- Idle and busy, and a register of each width: the bits above GRID_W's 16 and GRID_NCH's 4 are not stored (10_state R37,
R38). -/
theorem test_witness_configurationWrites :
    idle.busy = false ∧ (pending 0).busy = true ∧ readWindow 0x2C (writeWindow 0x2C 0xABCD1234 idle) = 0x1234
      ∧ readWindow 0x34 (writeWindow 0x34 0xF5 idle) = 5 ∧ readWindow 0x3C (writeWindow 0x3C 0xABCD1234 idle) = 0xABCD1234
      ∧ readWindow 0x1C (writeWindow 0x1C 7 (pending 0)) = 0
      ∧ readWindow 0x04 (writeWindow 0x04 0xFFFFFFFE (pending 0)) = 2 := by decide

/-- Both ends of the reserved offsets. -/
theorem test_witness_readOnlyAndReserved :
    readWindow 0x44 idle = 0 ∧ readWindow 0xFC idle = 0 ∧ readWindow 0x40 idle ≠ 0 := by decide

/-- The first and the last register offset, and both kinds of access. -/
theorem test_witness_hostRegisterAccess :
    0x00 % 4 = 0 ∧ 0xFC < 256 ∧ 0xFC % 4 = 0 ∧ ¬ AtLmemWindow board (board.regBase + 0xFC)
      ∧ ¬ AtLmemWindow board (board.regBase + 0x00)
      ∧ ({ idle with script := [rdReg board .id] } : State).script = [.host (.read (board.regBase + 0x00) 4)]
      ∧ ({ idle with script := [wrReg board .ctrl 3] } : State).script = [.host (.write (board.regBase + 0x04) 4 3)] := by
  decide

/-- The last aligned word of LMEM. -/
theorem test_witness_hostWord :
    idle.busy = false ∧ 252 % 4 = 0 ∧ 252 + 4 ≤ idle.platform.lmemBytes
      ∧ ¬ AtRegWindow idle.platform (idle.platform.lmemBase + 252)
      ∧ ({ idle with script := [wwLmem board 252 1] } : State).script = [.host (.write (board.lmemBase + 252) 4 1)] := by
  decide

/-- The last byte of LMEM. -/
theorem test_witness_hostByte :
    idle.busy = false ∧ 255 < idle.platform.lmemBytes
      ∧ ¬ AtRegWindow idle.platform (idle.platform.lmemBase + 255)
      ∧ ({ idle with lmem := [(255, 9)] } : State).lmem.read 255 = some 9 := by decide

/-- A byte at the top of LMEM, and the last byte of a word. -/
theorem test_witness_hostUnwrittenRead :
    idle.busy = false ∧ ¬ AtRegWindow idle.platform (idle.platform.lmemBase + 252) ∧ idle.lmem.read 255 = none
      ∧ ¬ AtRegWindow idle.platform (idle.platform.lmemBase + 255)
      ∧ faultIs (step { idle with script := [.host (.read (0x20000 + 255) 1)] }) (.hostUnwrittenRead 255) = true
      ∧ (∀ j, j < 3 → (({ idle with lmem := cellsAt 252 [1, 2, 3] } : State).lmem.read (252 + j)).isSome = true)
      ∧ ({ idle with lmem := cellsAt 252 [1, 2, 3] } : State).lmem.read (252 + 3) = none
      ∧ faultIs (step { idle with lmem := cellsAt 252 [1, 2, 3], script := [.host (.read (0x20000 + 252) 4)] })
        (.hostUnwrittenRead 255) = true := by decide

/-- Each clause: a misaligned register access, a narrow one; a misaligned word, a halfword; an address in neither window. -/
theorem test_witness_busErrors :
    refusedIs (step { idle with script := [.host (.read (0x10000 + 0xFE) 4)] }) (.registerBusError 0xFE 4) = true
      ∧ refusedIs (step { idle with script := [.host (.write 0x10000 1 0)] }) (.registerBusError 0 1) = true
      ∧ refusedIs (step { pending 0 with script := [rwLmem board 253] }) (.lmemBusError 253 4) = true
      ∧ refusedIs (step { idle with script := [.host (.read (0x20000 + 254) 2)] }) (.lmemBusError 254 2) = true
      ∧ refusedIs (step { idle with script := [rbLmem board 256] }) (.addressOutsideWindows 0x20100) = true := by decide

/-- The last byte and the last aligned word of LMEM, held while BUSY = 1; the core steps and the access stays. -/
theorem test_witness_heldAccess :
    (pending 0).busy = true
      ∧ (accessAddr (.read (0x20000 + 255) 1) = board.lmemBase + 255 ∧ ¬ AtRegWindow board (0x20000 + 255)
        ∧ accessBytes (.read (0x20000 + 255) 1) = 1 ∧ 255 < board.lmemBytes)
      ∧ (accessAddr (.write (0x20000 + 252) 4 9) = board.lmemBase + 252 ∧ ¬ AtRegWindow board (0x20000 + 252)
        ∧ accessBytes (.write (0x20000 + 252) 4 9) = 4 ∧ 252 % 4 = 0 ∧ 252 + 4 ≤ board.lmemBytes)
      ∧ nextIs (step { pending 0 with script := [.host (.write (0x20000 + 252) 4 9)] })
        (fun t => t.done && t.script == [.host (.write (0x20000 + 252) 4 9)] && t.lmem == []) = true := by decide

theorem test_witness_reset :
    ({ encoded with script := [.reset, .powerOn] } : State).script = .reset :: [.powerOn]
      ∧ nextIs (step { encoded with script := [.powerOn] }) (fun t => t.lmem == []) = true := by decide

theorem test_witness_irq :
    nextIs (coreStep { pending 0xA0000000 with ctrlIeErr := true }) (fun t => irq t && t.err) = true := by decide

/-- The invariant holds with a command pending and an error recorded, and the step gives a next state. -/
theorem test_witness_stepKeepsInv :
    BlockInv { ab with cmdLatch := 0x10000000, busy := true, err := true, cause := 7 }
      ∧ nextIs (step { ab with cmdLatch := 0x10000000, busy := true, err := true, cause := 7 }) (fun t => t.done) = true := by
  refine ⟨?_, by decide⟩
  exact ⟨by decide, by decide, by decide, ⟨by decide, by decide⟩, by decide⟩

theorem test_witness_units :
    padCount 3 = 0 ∧ padCount 4 = 2 ∧ padCount 5 = 1 ∧ maxPayload 0 = none ∧ maxPayload 1 = some 0 ∧ maxPayload 4 = some 5
      ∧ (terminate [0x41, 0x00, 0x42]).2 = true ∧ [0x41, 0x00].take 2 = [0x41, 0x00, 0x42].take 2
      ∧ ([0x41, 0x00, 0x42] : List Byte)[1]? = some 0x00 ∧ ([0x41, 0x00, 0x42] : List Byte)[0]? ≠ some 0x00
      ∧ (gridOf grid2).pixelIndex 1 0 = 1 ∧ (1 < (gridOf grid2).width ∧ 0 < (gridOf grid2).height) := by decide

end Sys2Proof.Tests
end

/-! PROOFS. The invariant of the block (spec 00_scope R5, 10_state R27, R28, R45, 60_exceptions R262, R263): one rule per
update of the state, then per command, per host access and per turn, and from these the two statements about it. -/

namespace Sys2Proof.Machine

/-! How a command's transform is taken apart. -/

/-- A sequence of two parts that may fault succeeds exactly when both parts do. -/
theorem except_bind_eq_ok {ε α β : Type} {x : Except ε α} {f : α → Except ε β} {b : β} :
    x >>= f = .ok b ↔ ∃ a, x = .ok a ∧ f a = .ok b := by
  cases x <;> simp [bind, Except.bind]

/-- A command that completes ends in the finished state. -/
theorem complete_next {s t : State} : complete s = .next t ↔ t = finish s := by
  simp [complete, eq_comm]

/-- An error ends a command in the finished state with the error recorded. -/
theorem raise_next {r : Raise} {s t : State} : raise r s = .next t ↔ t = finish (recordError r s) := by
  simp [raise, eq_comm]

/-! What the turns that are not the core's can be; the core's is `nextTurn_core`. -/

/-- The host's turn takes its access off the script. -/
theorem nextTurn_host {s s' : State} {a : HostAccess} (h : nextTurn s = .host a s') :
    ∃ es, s.script = .host a :: es ∧ s' = setScript es s := by
  unfold nextTurn at h
  split at h
  case h_1 => split at h <;> cases h
  case h_2 => split at h <;> cases h
  case h_3 _ es hs => split at h <;> cases h; exact ⟨es, hs, rfl⟩
  case h_4 => cases h
  case h_5 => cases h

/-- A settled step leaves the block as it was, but for the script, or takes the reset input or power-on off the script. -/
theorem nextTurn_settled {s s' : State} (h : nextTurn s = .settled s') :
    (∃ es, s' = setScript es s) ∨ (∃ es, s' = assertReset (setScript es s)) ∨
      ∃ es, s' = applyPowerOn (setScript es s) := by
  unfold nextTurn at h
  split at h
  case h_1 => split at h <;> cases h; exact .inl ⟨s.script, rfl⟩
  case h_2 es _ => split at h <;> cases h; exact .inl ⟨es, rfl⟩
  case h_3 => split at h <;> cases h
  case h_4 es _ => cases h; exact .inr (.inl ⟨es, rfl⟩)
  case h_5 es _ => cases h; exact .inr (.inr ⟨es, rfl⟩)

/-! Updates of fields the invariant does not read. -/

section Irrelevant

variable {s : State}

@[simp] theorem blockInv_writeRes0 (v : Nat) : BlockInv (writeRes0 v s) ↔ BlockInv s := .rfl
@[simp] theorem blockInv_writeRes1 (v : Nat) : BlockInv (writeRes1 v s) ↔ BlockInv s := .rfl
@[simp] theorem blockInv_writePixIdx (v : Nat) : BlockInv (writePixIdx v s) ↔ BlockInv s := .rfl
@[simp] theorem blockInv_setCapOk (b : Bool) : BlockInv (setCapOk b s) ↔ BlockInv s := .rfl
@[simp] theorem blockInv_setTermFound (b : Bool) : BlockInv (setTermFound b s) ↔ BlockInv s := .rfl
@[simp] theorem blockInv_setTrunc (b : Bool) : BlockInv (setTrunc b s) ↔ BlockInv s := .rfl
@[simp] theorem blockInv_setScript (es : List Event) : BlockInv (setScript es s) ↔ BlockInv s := .rfl
@[simp] theorem blockInv_returnRead (v : Word) : BlockInv (returnRead v s) ↔ BlockInv s := .rfl

end Irrelevant

/-! Updates of fields it reads. -/

/-- Every cause has one of the codes 1 to 7 (60_exceptions R262). -/
theorem Cause.code_bounds (c : Cause) : 1 ≤ c.code.toNat ∧ c.code.toNat ≤ 7 := by
  cases c <;> decide

/-- Recording an error leaves a consistent error record: the old cause where ERR was 1, else the new one's code. -/
theorem ErrorRecordOk.recordError {s : State} (h : ErrorRecordOk s) (r : Raise) : ErrorRecordOk (recordError r s) := by
  refine ⟨fun he => by simp at he, fun _ => ?_⟩
  rw [recordError_cause]
  split
  · exact h.2 ‹_›
  · exact r.cause.code_bounds

/-- Clearing ERR clears CAUSE and ERR_INFO with it (10_state R29). -/
theorem ErrorRecordOk.clearStatus {s : State} (h : ErrorRecordOk s) (v : Word) : ErrorRecordOk (clearStatus v s) := by
  unfold ErrorRecordOk Machine.clearStatus
  cases v.getLsbD 2 with
  | false => simpa [ErrorRecordOk] using h
  | true => simp

namespace BlockInv

variable {s t : State}

theorem lmem_wf (h : BlockInv s) : s.lmem.wf = true := h.2.1

theorem lmem_within (h : BlockInv s) : s.lmem.within s.platform.lmemBytes = true := h.2.2.1

/-- The state after power-on meets the invariant when LMEM_BYTES is a legal size. -/
theorem powerOn {p : Platform} (hp : p.wf = true) : BlockInv (State.powerOn p) :=
  ⟨hp, rfl, rfl, ⟨fun _ => ⟨rfl, rfl⟩, nofun⟩, nofun⟩

/-- A canonical memory inside LMEM may replace LMEM. -/
theorem setLmem {m : Memory} (h : BlockInv s) (hw : m.wf = true) (hi : m.within s.platform.lmemBytes = true) :
    BlockInv (setLmem m s) := by
  obtain ⟨hp, _, _, hrest⟩ := h
  exact ⟨hp, hw, hi, hrest⟩

/-- The end of a command clears BUSY, so DONE may be set. -/
theorem finish (h : BlockInv s) : BlockInv (finish s) := by
  obtain ⟨hp, hw, hi, he, _⟩ := h
  exact ⟨hp, hw, hi, he, nofun⟩

theorem recordError (h : BlockInv s) (r : Raise) : BlockInv (recordError r s) := by
  obtain ⟨hp, hw, hi, he, hd⟩ := h
  exact ⟨by simpa, by simpa, by simpa, he.recordError r, by simpa⟩

theorem clearStatus (h : BlockInv s) (v : Word) : BlockInv (clearStatus v s) := by
  obtain ⟨hp, hw, hi, he, hd⟩ := h
  exact ⟨hp, hw, hi, he.clearStatus v, fun hb => by simp [Machine.clearStatus, hd hb]⟩

/-- Accepting a command sets BUSY and clears DONE; an overrun records an error (10_state R28). -/
theorem acceptCommand (h : BlockInv s) (w : Word) : BlockInv (acceptCommand w s) := by
  unfold Machine.acceptCommand
  split
  · exact h.recordError _
  · obtain ⟨hp, hw, hi, he, _⟩ := h
    exact ⟨hp, hw, hi, he, fun _ => rfl⟩

/-- The reset input keeps LMEM, and gives every register its value after power-on. -/
theorem assertReset (h : BlockInv s) : BlockInv (assertReset s) := by
  obtain ⟨hp, hw, hi, _⟩ := h
  exact (powerOn hp).setLmem hw hi

theorem applyPowerOn (h : BlockInv s) : BlockInv (applyPowerOn s) := powerOn h.1

/-! The transforms: each stores bytes of LMEM by MemWrite and touches nothing else that the invariant reads. -/

theorem of_memWrite {a : Nat} {v : Byte} (h : BlockInv s) (hx : memWrite a v s = .ok t) : BlockInv t := by
  obtain ⟨ha, rfl⟩ := memWrite_ok_iff.1 hx
  exact h.setLmem (Memory.write_wf a v h.lmem_wf) (Memory.write_within v h.lmem_within ha)

theorem of_writeBytes {a : Nat} {bs : List Byte} (h : BlockInv s) (hx : writeBytes a bs s = .ok t) : BlockInv t := by
  induction bs generalizing a s with
  | nil => cases hx; exact h
  | cons b bs ih =>
    obtain ⟨s', hw, hr⟩ := except_bind_eq_ok.1 hx
    exact ih (h.of_memWrite hw) hr

theorem of_embedAt {i : Instr} {a : Nat} {n : Slot} (h : BlockInv s) (hx : embedAt i a n s = .ok t) : BlockInv t := by
  obtain ⟨_, _, hw⟩ := except_bind_eq_ok.1 hx
  exact h.of_memWrite hw

theorem of_embedPixel {i : Instr} {g : Grid} {p : Nat} {n0 n1 n2 : Slot} (h : BlockInv s)
    (hx : embedPixel i g p n0 n1 n2 s = .ok t) : BlockInv t := by
  obtain ⟨s1, h1, hx⟩ := except_bind_eq_ok.1 hx
  obtain ⟨s2, h2, h3⟩ := except_bind_eq_ok.1 hx
  exact ((h.of_embedAt h1).of_embedAt h2).of_embedAt h3

theorem of_writeTriples {i : Instr} {g : Grid} {p : Nat} {q : List Slot} (h : BlockInv s)
    (hx : writeTriples i g p q s = .ok t) : BlockInv t := by
  induction p, q, s using writeTriples.induct with
  | case1 p n0 n1 n2 q s ih =>
    obtain ⟨s', hp, hr⟩ := except_bind_eq_ok.1 hx
    exact ih s' (h.of_embedPixel hp) hr
  | case2 p q s hq =>
    rw [writeTriples] at hx
    · cases hx; exact h
    · exact hq

theorem of_encodeGrid (h : BlockInv s) (hx : encodeGrid s = .ok t) : BlockInv t := by
  obtain ⟨_, _, hw⟩ := except_bind_eq_ok.1 hx
  exact h.of_writeTriples hw

/-! The commands. -/

theorem of_raise {r : Raise} (h : BlockInv s) (hx : raise r s = .next t) : BlockInv t := by
  rw [raise_next.1 hx]
  exact (h.recordError r).finish

theorem of_complete (h : BlockInv s) (hx : complete s = .next t) : BlockInv t := by
  rw [complete_next.1 hx]
  exact h.finish

theorem of_execCapq (h : BlockInv s) (hx : execCapq s = .next t) : BlockInv t := by
  unfold execCapq at hx
  split at hx
  · exact h.of_raise hx
  · exact of_complete (by simpa using h) hx

theorem of_execEnc (h : BlockInv s) (hx : execEnc s = .next t) : BlockInv t := by
  unfold execEnc at hx
  split at hx
  · exact h.of_raise hx
  · split at hx
    · obtain ⟨u, hu, rfl⟩ := completeOrFault_next.1 hx
      obtain ⟨s', hs', ⟨⟩⟩ := except_bind_eq_ok.1 hu
      have hInv : BlockInv s' := of_encodeGrid (by simpa using h) hs'
      exact finish (by simpa using hInv)
    · exact of_raise (by simpa using h) hx

theorem of_execDec (h : BlockInv s) (hx : execDec s = .next t) : BlockInv t := by
  unfold execDec at hx
  split at hx
  · exact h.of_raise hx
  · obtain ⟨u, hu, rfl⟩ := completeOrFault_next.1 hx
    obtain ⟨⟨r, found⟩, _, hu⟩ := except_bind_eq_ok.1 hu
    obtain ⟨s', hs', ⟨⟩⟩ := except_bind_eq_ok.1 hu
    exact finish (by simpa using h.of_writeBytes hs')

theorem of_execDpix {t0 t1 t2 : Nibble} (h : BlockInv s) (hx : execDpix t0 t1 t2 s = .next t) : BlockInv t := by
  unfold execDpix at hx
  split at hx
  · exact h.of_raise hx
  · obtain ⟨u, hu, rfl⟩ := completeOrFault_next.1 hx
    obtain ⟨s', hs', ⟨⟩⟩ := except_bind_eq_ok.1 hu
    exact finish (by simpa using h.of_embedPixel hs')

theorem of_execGpix (h : BlockInv s) (hx : execGpix s = .next t) : BlockInv t := by
  unfold execGpix at hx
  split at hx
  · exact h.of_raise hx
  · obtain ⟨u, hu, rfl⟩ := completeOrFault_next.1 hx
    obtain ⟨⟨r, g, b⟩, _, ⟨⟩⟩ := except_bind_eq_ok.1 hu
    exact finish (by simpa using h)

theorem of_exec {i : Instr} (h : BlockInv s) (hx : exec i s = .next t) : BlockInv t := by
  cases i with
  | nop => exact of_complete h hx
  | enc => exact h.of_execEnc hx
  | dec => exact h.of_execDec hx
  | capq => exact h.of_execCapq hx
  | unpk b8 => exact of_complete ((blockInv_writeRes0 _).2 h) hx
  | padc n24 => exact of_complete ((blockInv_writeRes1 _).2 ((blockInv_writeRes0 _).2 h)) hx
  | dpix t0 t1 t2 => exact h.of_execDpix hx
  | gpix => exact h.of_execGpix hx
  | rpk s0 s1 => exact of_complete ((blockInv_writeRes0 _).2 h) hx
  | tdet b8 => exact of_complete ((blockInv_setTermFound _).2 ((blockInv_writeRes0 _).2 h)) hx

theorem of_coreStep (h : BlockInv s) (hx : coreStep s = .next t) : BlockInv t := by
  unfold coreStep at hx
  split at hx
  · exact h.of_exec hx
  · exact h.of_raise hx

/-! The host. -/

/-- A write to an RWL register keeps the invariant when the written state meets it. -/
theorem whileIdle {w : State} (h : BlockInv s) (hw : BlockInv w) : BlockInv (whileIdle s w) := by
  unfold Machine.whileIdle
  split
  · exact h
  · exact hw

/-- Only a write to STATUS or CMD reaches a field that the invariant reads. -/
theorem writeReg (h : BlockInv s) (r : Reg) (v : Word) : BlockInv (writeReg r v s) := by
  cases r with
  | id | ctrl | errInfo | res0 | res1 | lmemSize => exact h
  | status => exact h.clearStatus v
  | cmd => exact h.acceptCommand v
  | pixIdx | payBase | payLen | gridBase | gridW | gridH | gridNch | outBase | outMax => exact h.whileIdle h

theorem writeWindow (h : BlockInv s) (off : Nat) (v : Word) : BlockInv (writeWindow off v s) := by
  unfold Machine.writeWindow
  split
  · exact h.writeReg _ v
  · exact h

theorem of_hostStep {access : HostAccess} (h : BlockInv s) (hx : hostStep access s = .next t) : BlockInv t := by
  obtain ⟨v, rfl⟩ | ⟨off, v, rfl⟩ | ⟨a, bytes, v, hl, rfl⟩ := hostStep_cases hx
  · exact (blockInv_returnRead v).2 h
  · exact h.writeWindow off v
  · exact h.setLmem (hostWriteLmem_wf a bytes v h.lmem_wf) (hostWriteLmem_within v hl h.lmem_within)

/-! The step. -/

theorem of_step (h : BlockInv s) (hx : step s = .next t) : BlockInv t := by
  have hScript : ∀ es, BlockInv (setScript es s) := fun es => (blockInv_setScript es).2 h
  unfold step at hx
  split at hx
  case h_1 s' hturn =>
    obtain ⟨_, rfl | ⟨es, _, rfl⟩⟩ := nextTurn_core hturn
    · exact h.of_coreStep hx
    · exact (hScript es).of_coreStep hx
  case h_2 a s' hturn =>
    obtain ⟨es, _, rfl⟩ := nextTurn_host hturn
    exact (hScript es).of_hostStep hx
  case h_3 s' hturn =>
    cases hx
    obtain ⟨es, rfl⟩ | ⟨es, rfl⟩ | ⟨es, rfl⟩ := nextTurn_settled hturn
    · exact hScript es
    · exact (hScript es).assertReset
    · exact (hScript es).applyPowerOn

end BlockInv

/-- The OPEN size of LMEM is one of the 17 sizes 00_scope R5 allows, whatever its constant is (log entry 1). -/
theorem config_platform_wf : Config.platform.wf = true :=
  List.any_eq_true.2 ⟨Config.lmemSizeStep.val, List.mem_range.2 Config.lmemSizeStep.isLt, beq_self_eq_true _⟩

/-- Settles O52: every step keeps the invariant, by the kind of turn, then by command or by kind of host access. -/
theorem stepKeepsInv : Obligations.StepKeepsInv := fun _ _ h hx => h.of_step hx

/-- Settles O53: the invariant holds after power-on, on every platform the OPEN parameters may name. -/
theorem resetInv : Obligations.ResetInv := BlockInv.powerOn config_platform_wf

end Sys2Proof.Machine

/-! PROOFS. The registers of the block (spec 10_state): what every end of a command leaves (46 R220, 60_exceptions R264),
the step by the head of the script (10_state R20), the host's register accesses (10_state R24 to R40), the writers of the
error record (60_exceptions R263), and reset (70_reset R300). -/

namespace Sys2Proof.Machine

variable {s t u : State}

/-! The transforms store bytes of LMEM and change no other field. -/

/-- Two states that differ in LMEM only. -/
def OnlyLmemDiffers (s t : State) : Prop := ∃ m, t = setLmem m s

theorem OnlyLmemDiffers.refl (s : State) : OnlyLmemDiffers s s := ⟨s.lmem, rfl⟩

theorem OnlyLmemDiffers.trans (h : OnlyLmemDiffers s t) (h' : OnlyLmemDiffers t u) : OnlyLmemDiffers s u := by
  obtain ⟨_, rfl⟩ := h
  obtain ⟨m, rfl⟩ := h'
  exact ⟨m, rfl⟩

theorem memWrite_onlyLmemDiffers {a : Nat} {v : Byte} (h : memWrite a v s = .ok t) : OnlyLmemDiffers s t :=
  ⟨_, (memWrite_ok_iff.1 h).2⟩

theorem writeBytes_onlyLmemDiffers {a : Nat} {bs : List Byte} (h : writeBytes a bs s = .ok t) :
    OnlyLmemDiffers s t := by
  induction bs generalizing a s with
  | nil => cases h; exact .refl _
  | cons b bs ih =>
    obtain ⟨s', hw, hr⟩ := except_bind_eq_ok.1 h
    exact (memWrite_onlyLmemDiffers hw).trans (ih hr)

theorem embedAt_onlyLmemDiffers {i : Instr} {a : Nat} {n : Slot} (h : embedAt i a n s = .ok t) :
    OnlyLmemDiffers s t := by
  obtain ⟨_, _, hw⟩ := except_bind_eq_ok.1 h
  exact memWrite_onlyLmemDiffers hw

theorem embedPixel_onlyLmemDiffers {i : Instr} {g : Grid} {p : Nat} {n0 n1 n2 : Slot}
    (h : embedPixel i g p n0 n1 n2 s = .ok t) : OnlyLmemDiffers s t := by
  obtain ⟨s1, h1, h⟩ := except_bind_eq_ok.1 h
  obtain ⟨s2, h2, h3⟩ := except_bind_eq_ok.1 h
  exact ((embedAt_onlyLmemDiffers h1).trans (embedAt_onlyLmemDiffers h2)).trans (embedAt_onlyLmemDiffers h3)

theorem writeTriples_onlyLmemDiffers {i : Instr} {g : Grid} {p : Nat} {q : List Slot}
    (h : writeTriples i g p q s = .ok t) : OnlyLmemDiffers s t := by
  induction p, q, s using writeTriples.induct with
  | case1 p n0 n1 n2 q s ih =>
    obtain ⟨s', hp, hr⟩ := except_bind_eq_ok.1 h
    exact (embedPixel_onlyLmemDiffers hp).trans (ih s' hr)
  | case2 p q s hq =>
    rw [writeTriples] at h
    · cases h; exact .refl _
    · exact hq

theorem encodeGrid_onlyLmemDiffers (h : encodeGrid s = .ok t) : OnlyLmemDiffers s t := by
  obtain ⟨_, _, hw⟩ := except_bind_eq_ok.1 h
  exact writeTriples_onlyLmemDiffers hw

/-! What a command can do, said once. -/

/-- The states a command can end in (46 R220; 60_exceptions R263, R264), with the values it computes left open: after an
error, after ENC's capacity error, which clears CAP_OK too (46 R224), or after its own writes. -/
inductive CommandEnds (s : State) : Instr → State → Prop
  | error (i : Instr) (r : Raise) : CommandEnds s i (finish (recordError r s))
  | capacityError (r : Raise) : CommandEnds s .enc (finish (recordError r (setCapOk false s)))
  | nop : CommandEnds s .nop (finish s)
  | enc (m : Memory) (p c : Nat) :
      CommandEnds s .enc (finish (writeRes1 c (writeRes0 p (setLmem m (setCapOk true s)))))
  | dec (m : Memory) (n k : Nat) (found cut : Bool) :
      CommandEnds s .dec (finish (setTrunc cut (setTermFound found (writeRes1 k (writeRes0 n (setLmem m s))))))
  | capq (p c : Nat) (fits : Bool) : CommandEnds s .capq (finish (setCapOk fits (writeRes1 c (writeRes0 p s))))
  | unpk (b8 : Byte) (v : Nat) : CommandEnds s (.unpk b8) (finish (writeRes0 v s))
  | padc (n24 : Count24) (n k : Nat) : CommandEnds s (.padc n24) (finish (writeRes1 k (writeRes0 n s)))
  | dpix (t0 t1 t2 : Nibble) (m : Memory) (p : Nat) :
      CommandEnds s (.dpix t0 t1 t2) (finish (writePixIdx p (setLmem m s)))
  | gpix (v p : Nat) : CommandEnds s .gpix (finish (writePixIdx p (writeRes0 v s)))
  | rpk (s0 s1 : Slot) (v : Nat) : CommandEnds s (.rpk s0 s1) (finish (writeRes0 v s))
  | tdet (b8 : Byte) (v : Nat) (found : Bool) :
      CommandEnds s (.tdet b8) (finish (setTermFound found (writeRes0 v s)))

theorem execCapq_ends (h : execCapq s = .next t) : CommandEnds s .capq t := by
  unfold execCapq at h
  split at h
  · obtain rfl := raise_next.1 h
    exact .error ..
  · obtain rfl := complete_next.1 h
    exact .capq ..

theorem execEnc_ends (h : execEnc s = .next t) : CommandEnds s .enc t := by
  unfold execEnc at h
  split at h
  · obtain rfl := raise_next.1 h
    exact .error ..
  · split at h
    · obtain ⟨u, hu, rfl⟩ := completeOrFault_next.1 h
      obtain ⟨s', hs', ⟨⟩⟩ := except_bind_eq_ok.1 hu
      obtain ⟨m, rfl⟩ := encodeGrid_onlyLmemDiffers hs'
      exact .enc ..
    · obtain rfl := raise_next.1 h
      exact .capacityError ..

theorem execDec_ends (h : execDec s = .next t) : CommandEnds s .dec t := by
  unfold execDec at h
  split at h
  · obtain rfl := raise_next.1 h
    exact .error ..
  · obtain ⟨u, hu, rfl⟩ := completeOrFault_next.1 h
    obtain ⟨⟨r, found⟩, _, hu⟩ := except_bind_eq_ok.1 hu
    obtain ⟨s', hs', ⟨⟩⟩ := except_bind_eq_ok.1 hu
    obtain ⟨m, rfl⟩ := writeBytes_onlyLmemDiffers hs'
    exact .dec ..

theorem execDpix_ends {t0 t1 t2 : Nibble} (h : execDpix t0 t1 t2 s = .next t) :
    CommandEnds s (.dpix t0 t1 t2) t := by
  unfold execDpix at h
  split at h
  · obtain rfl := raise_next.1 h
    exact .error ..
  · obtain ⟨u, hu, rfl⟩ := completeOrFault_next.1 h
    obtain ⟨s', hs', ⟨⟩⟩ := except_bind_eq_ok.1 hu
    obtain ⟨m, rfl⟩ := embedPixel_onlyLmemDiffers hs'
    exact .dpix ..

theorem execGpix_ends (h : execGpix s = .next t) : CommandEnds s .gpix t := by
  unfold execGpix at h
  split at h
  · obtain rfl := raise_next.1 h
    exact .error ..
  · obtain ⟨u, hu, rfl⟩ := completeOrFault_next.1 h
    obtain ⟨⟨r, g, b⟩, _, ⟨⟩⟩ := except_bind_eq_ok.1 hu
    exact .gpix ..

/-- Whatever next state a command answers, it is one of the ends listed for that command. -/
theorem exec_ends {i : Instr} (h : exec i s = .next t) : CommandEnds s i t := by
  cases i with
  | nop => obtain rfl := complete_next.1 h; exact .nop
  | enc => exact execEnc_ends h
  | dec => exact execDec_ends h
  | capq => exact execCapq_ends h
  | unpk b8 => obtain rfl := complete_next.1 h; exact .unpk ..
  | padc n24 => obtain rfl := complete_next.1 h; exact .padc ..
  | dpix t0 t1 t2 => exact execDpix_ends h
  | gpix => exact execGpix_ends h
  | rpk s0 s1 => obtain rfl := complete_next.1 h; exact .rpk ..
  | tdet b8 => obtain rfl := complete_next.1 h; exact .tdet ..

/-- Settles O34: each end of each command is `finish` of writes to other fields. -/
theorem configurationIsNeverWritten : Obligations.ConfigurationIsNeverWritten := by
  intro i s t h
  cases exec_ends h <;> simp

/-- Settles O35: the fields written in each end of each command. -/
theorem resultAndFlagWriters : Obligations.ResultAndFlagWriters := by
  intro i s t h
  cases exec_ends h <;> simp

/-! The core's turn. -/

/-- The core's step with a word that decodes is that command's execution (46 R220). -/
theorem coreStep_of_decode {i : Instr} (h : decode s.cmdLatch = .ok i) : coreStep s = exec i s := by
  rw [coreStep, h]

/-- A core step that answers a next state ends a command, or records an illegal word (46 R220; 60_exceptions R265). -/
theorem coreStep_cases (h : coreStep s = .next t) :
    (∃ i, exec i s = .next t) ∨ t = finish (recordError ⟨.illegalCmd, s.cmdLatch⟩ s) := by
  unfold coreStep at h
  split at h
  case h_1 i _ => exact .inl ⟨i, h⟩
  case h_2 => exact .inr (raise_next.1 h)

/-- Every core step ends with DONE = 1 and leaves CTRL. -/
theorem coreStep_done_ctrl (h : coreStep s = .next t) :
    t.done = true ∧ t.ctrlIeDone = s.ctrlIeDone ∧ t.ctrlIeErr = s.ctrlIeErr := by
  obtain ⟨i, hi⟩ | rfl := coreStep_cases h
  · obtain ⟨-, hdone, hieDone, hieErr, -⟩ := configurationIsNeverWritten i s t hi
    exact ⟨hdone, hieDone, hieErr⟩
  · simp

theorem irq_iff (s : State) :
    irq s = true ↔ (s.done = true ∧ s.ctrlIeDone = true) ∨ (s.err = true ∧ s.ctrlIeErr = true) := by
  simp [irq]

/-- Settles O51: DONE is 1 after a core step, and CTRL is what it was. -/
theorem irqFollowsCompletion : Obligations.IrqFollowsCompletion := by
  refine fun s => ⟨irq_iff s, fun t h => ?_⟩
  obtain ⟨hdone, hieDone, hieErr⟩ := coreStep_done_ctrl h
  rw [irq_iff, hdone, hieDone, hieErr]
  exact ⟨fun hd => .inl ⟨rfl, hd⟩, fun he herr => .inr ⟨herr, he⟩⟩

/-! The step by the head of the script (10_state R20). -/

section Script

variable {es : List Event} {a : HostAccess}

theorem step_of_nil (hs : s.script = []) : step s = if s.busy then coreStep s else .next s := by
  simp only [step, nextTurn, hs]
  cases s.busy <;> rfl

theorem step_of_core (hs : s.script = .core :: es) :
    step s = if s.busy then coreStep (setScript es s) else .next (setScript es s) := by
  simp only [step, nextTurn, hs]
  cases s.busy <;> rfl

theorem step_of_host (hs : s.script = .host a :: es) :
    step s = if hostHeld a s then coreStep s else hostStep a (setScript es s) := by
  simp only [step, nextTurn, hs]
  cases hostHeld a s <;> rfl

theorem step_of_reset (hs : s.script = .reset :: es) : step s = .next (assertReset (setScript es s)) := by
  simp only [step, nextTurn, hs]

theorem step_of_powerOn (hs : s.script = .powerOn :: es) : step s = .next (applyPowerOn (setScript es s)) := by
  simp only [step, nextTurn, hs]

end Script

/-! Where a host access goes. -/

theorem inRegWindow_iff (p : Platform) (x : Nat) : inRegWindow p x = true ↔ AtRegWindow p x := by
  simp [inRegWindow]

theorem inLmemWindow_iff (p : Platform) (x : Nat) : inLmemWindow p x = true ↔ AtLmemWindow p x := by
  simp [inLmemWindow]

theorem lmemAccessLegal_iff (n x bytes : Nat) :
    lmemAccessLegal n x bytes = true ↔ (bytes = 1 ∧ x < n) ∨ (bytes = 4 ∧ x % 4 = 0 ∧ x + 4 ≤ n) := by
  simp [lmemAccessLegal, and_assoc]

/-- A legal LMEM access reaches the LMEM window. -/
theorem atLmemWindow_of_legal {p : Platform} {x bytes : Nat} (h : lmemAccessLegal p.lmemBytes x bytes = true) :
    AtLmemWindow p (p.lmemBase + x) := by
  rw [lmemAccessLegal_iff] at h
  constructor <;> omega

/-- A legal LMEM access outside the register window is held while BUSY = 1 (20_memory R64; 70_reset R311). -/
theorem hostHeld_of_legal {a : HostAccess} {x : Nat} (hb : s.busy = true)
    (hx : accessAddr a = s.platform.lmemBase + x) (hr : ¬ AtRegWindow s.platform (accessAddr a))
    (hl : lmemAccessLegal s.platform.lmemBytes x (accessBytes a) = true) : hostHeld a s = true := by
  have hw : inLmemWindow s.platform (accessAddr a) = true :=
    (inLmemWindow_iff ..).2 (hx ▸ atLmemWindow_of_legal hl)
  have hsub : accessAddr a - s.platform.lmemBase = x := by omega
  have hr' : inRegWindow s.platform (accessAddr a) = false := by
    rwa [← Bool.not_eq_true, inRegWindow_iff]
  simp [hostHeld, hb, hw, hr', hsub, hl]

/-- Settles O7: by the head of the script. -/
theorem stepRunsDecodedCommand : Obligations.StepRunsDecodedCommand := by
  refine fun s => ⟨fun i => coreStep_of_decode, fun hb => ⟨fun hs => ?_, fun es hs => ?_, fun a es x hs hx hr hl => ?_⟩⟩
  · have hstep : step s = coreStep s := by rw [step_of_nil hs, if_pos hb]
    exact ⟨hstep, fun i hi => hstep.trans (coreStep_of_decode hi)⟩
  · have hstep : step s = coreStep (setScript es s) := by rw [step_of_core hs, if_pos hb]
    exact ⟨hstep, fun i hi => hstep.trans (coreStep_of_decode hi)⟩
  · have hheld : hostHeld a s = true := hostHeld_of_legal hb hx hr ((lmemAccessLegal_iff ..).2 hl)
    have hstep : step s = coreStep s := by rw [step_of_host hs, if_pos hheld]
    exact ⟨hstep, fun i hi => hstep.trans (coreStep_of_decode hi)⟩

theorem decodeTableWord_eq_some {nbits w : Nat} {i : Instr} :
    decodeTableWord nbits w = some i ↔ decode (BitVec.ofNat 32 (w % 2 ^ nbits)) = .ok i := by
  unfold decodeTableWord
  split <;> simp_all

/-- Settles O8: the accepted word is in CMD_LATCH, BUSY = 1 and a core turn is next. -/
theorem stepAfterFetchWord : Obligations.StepAfterFetchWord := by
  intro s w i hw hi
  have hlatch : decode (s.withFetchWord 32 w).cmdLatch = .ok i := decodeTableWord_eq_some.1 hi
  have hstep : step (s.withFetchWord 32 w) = exec i (setScript s.script (s.withFetchWord 32 w)) :=
    (step_of_core rfl).trans (coreStep_of_decode hlatch)
  rw [hstep, State.withFetchWord, Nat.mod_eq_of_lt hw]
  rfl

/-! A host write of a register is a step of its own, at any time (20_memory R63; 70_reset R312). -/

/-- A register access outside the LMEM window reaches the register window and is never held. -/
theorem step_writeWindow {off : Nat} {v : Word} {es : List Event} (hoff : off < 256) (h4 : off % 4 = 0)
    (hs : s.script = .host (.write (s.platform.regBase + off) 4 v) :: es)
    (hl : ¬ AtLmemWindow s.platform (s.platform.regBase + off)) :
    step s = .next (writeWindow off v (setScript es s)) := by
  have hr' : inRegWindow s.platform (s.platform.regBase + off) = true := by
    rw [inRegWindow_iff]; constructor <;> omega
  have hl' : inLmemWindow s.platform (s.platform.regBase + off) = false := by
    rwa [← Bool.not_eq_true, inLmemWindow_iff]
  rw [step_of_host hs]
  simp [hostHeld, hostStep, hostRegisterStep, registerAccessLegal, accessAddr, accessBytes, hr', hl', h4]

/-- The write of a register at its offset, by its access code. -/
theorem writeWindow_offset (r : Reg) (v : Word) (s : State) : writeWindow r.offset v s = writeReg r v s := by
  rw [writeWindow, regAt_offset]

theorem readWindow_offset (r : Reg) (s : State) : readWindow r.offset s = readReg r s := by
  rw [readWindow, regAt_offset]

/-- The reserved offsets hold no register (10_state R24). -/
theorem regAt_reserved {off : Nat} (h : 0x44 ≤ off) : regAt off = none := by
  have hlt : ∀ r : Reg, r.offset < 0x44 := by intro r; cases r <;> decide
  refine List.find?_eq_none.2 fun r _ => ?_
  have := hlt r
  simp only [beq_iff_eq]
  omega

/-- The step of a host write of a register. -/
theorem step_writeReg (r : Reg) {v : Word} {es : List Event}
    (hs : s.script = .host (.write (s.platform.regBase + r.offset) 4 v) :: es)
    (hl : ¬ AtLmemWindow s.platform (s.platform.regBase + r.offset)) :
    step s = .next (writeReg r v (setScript es s)) := by
  obtain ⟨hoff, h4⟩ := offset_legal r
  rw [step_writeWindow hoff h4 hs hl, writeWindow_offset]

/-- A W1C bit, as a choice. -/
theorem and_not_eq_ite (a b : Bool) : (a && !b) = if b then false else a := by cases b <;> simp

/-- Settles O39: the write is one step, the W1C of its three bits. -/
theorem statusWriteOneClears : Obligations.StatusWriteOneClears := by
  intro v s es hs hl
  rw [step_writeReg .status hs hl]
  simp only [writeReg, clearStatus, and_not_eq_ite]
  rfl

/-- An overrun, written out (60_exceptions R263, R268). -/
theorem recordError_eq (r : Raise) (s : State) : recordError r s =
    { s with
      err := true
      errOvf := s.errOvf || s.err
      cause := if s.err then s.cause else r.cause.code
      errInfo := if s.err then s.errInfo else r.info } := by
  cases h : s.err <;> simp [recordError, h]

/-- Settles O40: a write to CMD is one step; BUSY decides between the acceptance and the overrun. -/
theorem cmdWriteAcceptsOrOverruns : Obligations.CmdWriteAcceptsOrOverruns := by
  intro w s es hs hl
  have hstep : step s = .next (acceptCommand w (setScript es s)) := step_writeReg .cmd hs hl
  refine ⟨readWindow_offset .cmd s, fun hb => ?_, fun hb => ?_⟩
  · have hidle : ¬ (setScript es s).busy = true := by simp [hb]
    rw [hstep, acceptCommand, if_neg hidle]
    rfl
  · have hbusy : (setScript es s).busy = true := hb
    rw [hstep, acceptCommand, if_pos hbusy, recordError_eq]
    rfl

/-! What a host access gives, with the access named. -/

/-- A register access returns a value, or is a 4-byte write of the window (20_memory R63). -/
theorem hostRegisterStep_next {off : Nat} {a : HostAccess} (h : hostRegisterStep off a s = .next t) :
    (∃ v, t = returnRead v s) ∨ ∃ x v, a = .write x 4 v ∧ t = writeWindow off v s := by
  unfold hostRegisterStep at h
  split at h
  case isFalse => cases h
  case isTrue hl =>
    cases a with
    | read x n => cases h; exact .inl ⟨_, rfl⟩
    | write x n v =>
      cases h
      obtain rfl : n = 4 := by
        simp only [registerAccessLegal, accessBytes, Bool.and_eq_true, beq_iff_eq] at hl
        exact hl.1
      exact .inr ⟨x, v, rfl, rfl⟩

/-- An LMEM access returns a value, or replaces LMEM (20_memory R64). -/
theorem hostLmemStep_next {x : Nat} {a : HostAccess} (h : hostLmemStep x a s = .next t) :
    (∃ v, t = returnRead v s) ∨ ∃ m, t = setLmem m s := by
  unfold hostLmemStep at h
  split at h
  case isFalse => cases h
  case isTrue =>
    cases a with
    | read y n =>
      simp only at h
      split at h <;> cases h
      exact .inl ⟨_, rfl⟩
    | write y n v => cases h; exact .inr ⟨_, rfl⟩

/-- A host access that reaches a register is a 4-byte write at its offset; any other returns a value or replaces LMEM. -/
theorem hostStep_next {a : HostAccess} (h : hostStep a s = .next t) :
    (∃ v, t = returnRead v s) ∨ (∃ off v, a = .write (s.platform.regBase + off) 4 v ∧ t = writeWindow off v s)
      ∨ ∃ m, t = setLmem m s := by
  unfold hostStep at h
  split at h
  case isTrue hr =>
    split at h
    case isTrue => cases h
    case isFalse =>
      obtain hread | ⟨x, v, rfl, rfl⟩ := hostRegisterStep_next h
      · exact .inl hread
      · have hbase : s.platform.regBase ≤ x := ((inRegWindow_iff ..).1 hr).1
        exact .inr (.inl ⟨_, v, by rw [accessAddr, Nat.add_sub_cancel' hbase], rfl⟩)
  case isFalse =>
    split at h
    case isTrue => exact (hostLmemStep_next h).imp_right .inr
    case isFalse => cases h

/-! The error record (60_exceptions R263). -/

/-- ERR, ERR_OVF, CAUSE and ERR_INFO. -/
def errorRecord (s : State) : Bool × Bool × BitVec 4 × Word := (s.err, s.errOvf, s.cause, s.errInfo)

/-- The error record is what it was, or what `recordError` makes of it for one error. -/
def KeepsOrRecordsError (s t : State) : Prop :=
  errorRecord t = errorRecord s ∨ ∃ r, errorRecord t = errorRecord (recordError r s)

theorem recordError_setCapOk (b : Bool) (r : Raise) (s : State) :
    recordError r (setCapOk b s) = setCapOk b (recordError r s) := by
  rw [recordError_eq, recordError_eq]
  rfl

theorem recordError_setScript (es : List Event) (r : Raise) (s : State) :
    recordError r (setScript es s) = setScript es (recordError r s) := by
  rw [recordError_eq, recordError_eq]
  rfl

@[simp] theorem errorRecord_setCapOk (b : Bool) (s : State) : errorRecord (setCapOk b s) = errorRecord s := rfl
@[simp] theorem errorRecord_setScript (es : List Event) (s : State) : errorRecord (setScript es s) = errorRecord s := rfl
@[simp] theorem errorRecord_finish (s : State) : errorRecord (finish s) = errorRecord s := rfl

/-- The script has no part in it. -/
@[simp] theorem keepsOrRecordsError_setScript (es : List Event) :
    KeepsOrRecordsError (setScript es s) t ↔ KeepsOrRecordsError s t := by
  simp only [KeepsOrRecordsError, recordError_setScript, errorRecord_setScript]

/-- A command keeps the error record or records one error. -/
theorem CommandEnds.keepsOrRecordsError {i : Instr} (h : CommandEnds s i t) : KeepsOrRecordsError s t := by
  cases h with
  | error i r => exact .inr ⟨r, rfl⟩
  | capacityError r => exact .inr ⟨r, by simp [recordError_setCapOk]⟩
  | _ => exact .inl (by simp [errorRecord])

theorem coreStep_keepsOrRecordsError (h : coreStep s = .next t) : KeepsOrRecordsError s t := by
  obtain ⟨i, hi⟩ | rfl := coreStep_cases h
  · exact (exec_ends hi).keepsOrRecordsError
  · exact .inr ⟨_, rfl⟩

theorem acceptCommand_keepsOrRecordsError (w : Word) (s : State) : KeepsOrRecordsError s (acceptCommand w s) := by
  unfold acceptCommand
  split
  · exact .inr ⟨_, rfl⟩
  · exact .inl rfl

theorem errorRecord_whileIdle {w : State} (h : errorRecord w = errorRecord s) :
    errorRecord (whileIdle s w) = errorRecord s := by
  unfold whileIdle
  split
  · rfl
  · exact h

/-- Of the registers, only STATUS has a write that may do anything else to the error record. -/
theorem writeReg_keepsOrRecordsError {r : Reg} (hr : r ≠ .status) (v : Word) (s : State) :
    KeepsOrRecordsError s (writeReg r v s) := by
  cases r with
  | status => exact absurd rfl hr
  | cmd => exact acceptCommand_keepsOrRecordsError v s
  | id | ctrl | errInfo | res0 | res1 | lmemSize => exact .inl rfl
  | pixIdx | payBase | payLen | gridBase | gridW | gridH | gridNch | outBase | outMax =>
    exact .inl (errorRecord_whileIdle rfl)

/-- The register found at an offset is the one whose offset it is. -/
theorem offset_of_regAt {off : Nat} {r : Reg} (h : regAt off = some r) : r.offset = off := by
  simpa using List.find?_some h

theorem writeWindow_keepsOrRecordsError {off : Nat} (hoff : off ≠ 0x08) (v : Word) (s : State) :
    KeepsOrRecordsError s (writeWindow off v s) := by
  unfold writeWindow
  split
  case h_1 r hat =>
    have hr : r ≠ .status := by
      rintro rfl
      exact hoff (offset_of_regAt hat).symm
    exact writeReg_keepsOrRecordsError hr v s
  case h_2 => exact .inl rfl

/-- A host access keeps the error record or records one error, unless it writes STATUS. -/
theorem hostStep_keepsOrRecordsError {a : HostAccess} (h : hostStep a s = .next t) :
    KeepsOrRecordsError s t ∨ ∃ v, a = .write (s.platform.regBase + 0x08) 4 v := by
  obtain ⟨v, rfl⟩ | ⟨off, v, rfl, rfl⟩ | ⟨m, rfl⟩ := hostStep_next h
  · exact .inl (.inl rfl)
  · by_cases hoff : off = 0x08
    · exact .inr ⟨v, by rw [hoff]⟩
    · exact .inl (writeWindow_keepsOrRecordsError hoff v s)
  · exact .inl (.inl rfl)

/-- The error record after a step, by the head of the script. -/
theorem step_errorRecord (h : step s = .next t) :
    KeepsOrRecordsError s t ∨ (∃ v es, s.script = .host (.write (s.platform.regBase + 0x08) 4 v) :: es)
      ∨ ∃ es, s.script = .reset :: es ∨ s.script = .powerOn :: es := by
  cases hs : s.script with
  | nil =>
    rw [step_of_nil hs] at h
    split at h
    · exact .inl (coreStep_keepsOrRecordsError h)
    · cases h; exact .inl (.inl rfl)
  | cons e es =>
    cases e with
    | core =>
      rw [step_of_core hs] at h
      split at h
      · exact .inl ((keepsOrRecordsError_setScript es).1 (coreStep_keepsOrRecordsError h))
      · cases h; exact .inl (.inl rfl)
    | host a =>
      rw [step_of_host hs] at h
      split at h
      · exact .inl (coreStep_keepsOrRecordsError h)
      · obtain hk | ⟨v, rfl⟩ := hostStep_keepsOrRecordsError h
        · exact .inl ((keepsOrRecordsError_setScript es).1 hk)
        · exact .inr (.inl ⟨v, es, rfl⟩)
    | reset => exact .inr (.inr ⟨es, .inl rfl⟩)
    | powerOn => exact .inr (.inr ⟨es, .inr rfl⟩)

/-- Settles O29: what a step does to the error record, field by field. -/
theorem errorRecordWriters : Obligations.ErrorRecordWriters := by
  intro s t h
  obtain (hkeep | ⟨r, hrec⟩) | hother := step_errorRecord h
  · exact .inl (by simpa [errorRecord] using hkeep)
  · exact .inr (.inl ⟨r, by simpa [errorRecord] using hrec⟩)
  · exact .inr (.inr hother)

/-! Reading the register window (10_state R24 to R40). -/

/-- The lowest bit of a word that ends in a flag is the flag. -/
theorem getLsbD_append_ofBool_zero {n : Nat} (x : BitVec n) (b : Bool) : (x ++ BitVec.ofBool b).getLsbD 0 = b := by
  rw [BitVec.getLsbD_append]
  simp

/-- The bits above the flag are the word before it. -/
theorem getLsbD_append_ofBool_succ {n : Nat} (x : BitVec n) (b : Bool) (k : Nat) :
    (x ++ BitVec.ofBool b).getLsbD (k + 1) = x.getLsbD k := by
  rw [BitVec.getLsbD_append]
  simp

/-- A field above the flag is a field of the word before it. -/
theorem extractLsb'_append_ofBool_succ {n : Nat} (x : BitVec n) (b : Bool) (k m : Nat) :
    (x ++ BitVec.ofBool b).extractLsb' (k + 1) m = x.extractLsb' k m := by
  rw [BitVec.extractLsb'_append_eq_of_le (by omega), Nat.add_sub_cancel]

/-- STATUS above its seven flags: a bit that reads 0, CAUSE, and 0 above it (10_state R27). -/
theorem statusWord_upper_fields (c : BitVec 4) : (0#20 ++ c ++ 0#1).getLsbD 0 = false
    ∧ (0#20 ++ c ++ 0#1).extractLsb' 1 4 = c ∧ (0#20 ++ c ++ 0#1).extractLsb' 5 20 = 0#20 := by
  refine ⟨by rw [BitVec.getLsbD_append]; simp, ?_, ?_⟩ <;> rw [BitVec.extractLsb'_append_eq_of_le (by decide)]
  · exact BitVec.extractLsb'_append_eq_right
  · exact BitVec.extractLsb'_append_eq_left

/-- Settles O38: the flags are taken off STATUS one by one, from bit 0 up, and CAUSE stands above them. -/
theorem statusReadsItsFields : Obligations.StatusReadsItsFields := by
  intro s
  have hread : readWindow 0x08 s = statusWord s := readWindow_offset .status s
  rw [hread]
  simp only [statusWord, getLsbD_append_ofBool_succ, getLsbD_append_ofBool_zero, extractLsb'_append_ofBool_succ,
    statusWord_upper_fields, and_self]

/-- CTRL as it reads: IE_DONE, IE_ERR, and 0 above (10_state R26). -/
theorem ctrlWord_fields (s : State) : (ctrlWord s).getLsbD 0 = s.ctrlIeDone ∧ (ctrlWord s).getLsbD 1 = s.ctrlIeErr
    ∧ (ctrlWord s).extractLsb' 2 30 = 0#30 := by
  simp only [ctrlWord, getLsbD_append_ofBool_succ, getLsbD_append_ofBool_zero, extractLsb'_append_ofBool_succ,
    BitVec.extractLsb'_eq_self, and_self]

/-! Writing the register window (10_state R24; 70_reset R313). -/

/-- The registers with access code RWL, in the order of their offsets (10_state R24). -/
def rwlRegs : List Reg := [.pixIdx, .payBase, .payLen, .gridBase, .gridW, .gridH, .gridNch, .outBase, .outMax]

/-- The registers with access code RO, in the order of their offsets (10_state R24). -/
def roRegs : List Reg := [.id, .errInfo, .res0, .res1, .lmemSize]

theorem whileIdle_of_busy {w : State} (hb : s.busy = true) : whileIdle s w = s := if_pos hb

theorem whileIdle_of_idle {w : State} (hb : s.busy = false) : whileIdle s w = w := if_neg (by simp [hb])

theorem writeReg_rwl_of_busy (v : Word) (hb : s.busy = true) {r : Reg} (hr : r ∈ rwlRegs) : writeReg r v s = s := by
  cases r with
  | pixIdx | payBase | payLen | gridBase | gridW | gridH | gridNch | outBase | outMax => exact whileIdle_of_busy hb
  | _ => simp [rwlRegs] at hr

theorem writeReg_ro (v : Word) (s : State) {r : Reg} (hr : r ∈ roRegs) : writeReg r v s = s := by
  cases r with
  | id | errInfo | res0 | res1 | lmemSize => rfl
  | _ => simp [roRegs] at hr

/-- A write at the offset of one of some registers keeps the state when a write of each of them does. -/
theorem writeWindow_offsets_eq_self {rs : List Reg} {v : Word} (h : ∀ r ∈ rs, writeReg r v s = s) :
    ∀ off ∈ rs.map Reg.offset, writeWindow off v s = s :=
  List.forall_mem_map.2 fun r hr => (writeWindow_offset r v s).trans (h r hr)

/-- Settles O41: CTRL at any time; the RWL registers by BUSY. -/
theorem configurationWrites : Obligations.ConfigurationWrites := by
  refine fun v s => ⟨writeWindow_offset .ctrl v s, fun hb => ?_, fun hb => ?_⟩
  · exact writeWindow_offsets_eq_self (rs := rwlRegs) fun r => writeReg_rwl_of_busy v hb
  · have h16 : v.setWidth 16 = v.extractLsb' 0 16 := BitVec.setWidth_eq_extractLsb' (by decide)
    have h4 : v.setWidth 4 = v.extractLsb' 0 4 := BitVec.setWidth_eq_extractLsb' (by decide)
    rw [← h16, ← h4]
    have hidle : ∀ w, whileIdle s w = w := fun _ => whileIdle_of_idle hb
    exact ⟨hidle _, hidle _, hidle _, hidle _, hidle _, hidle _, hidle _, hidle _, hidle _⟩

/-- A reserved offset ignores writes and reads 0 (10_state R24). -/
theorem window_reserved {off : Nat} (h : 0x44 ≤ off) (v : Word) (s : State) :
    writeWindow off v s = s ∧ readWindow off s = 0 := by
  simp only [writeWindow, readWindow, regAt_reserved h, and_self]

/-- Settles O42: each register at its offset, and the offsets that hold none. -/
theorem readOnlyAndReserved : Obligations.ReadOnlyAndReserved := by
  intro v s
  have hro : ∀ off ∈ roRegs.map Reg.offset, writeWindow off v s = s :=
    writeWindow_offsets_eq_self fun r => writeReg_ro v s
  have hread : ∀ r : Reg, readWindow r.offset s = readReg r s := fun r => readWindow_offset r s
  obtain ⟨hieDone, hieErr, hzero⟩ := ctrlWord_fields s
  have h16 : ∀ x : BitVec 16, x.setWidth 32 = 0#16 ++ x := fun _ => BitVec.setWidth_eq_append (by decide)
  have h4 : s.gridNch.setWidth 32 = 0#28 ++ s.gridNch := BitVec.setWidth_eq_append (by decide)
  exact ⟨hro, fun off h _ => window_reserved h v s, hread .cmd, hread .id, hread .lmemSize, hread .errInfo,
    hread .res0, hread .res1, hieDone, hieErr, hzero, hread .pixIdx, hread .payBase, hread .payLen, hread .gridBase,
    (hread .gridW).trans (h16 _), (hread .gridH).trans (h16 _), (hread .gridNch).trans h4, hread .outBase,
    hread .outMax⟩

/-! Reset (70_reset R300, R301). -/

/-- The registers that read 0 after power-on, in the order of their offsets (10_state R24). -/
def zeroAtResetRegs : List Reg :=
  [.ctrl, .status, .cmd, .errInfo, .res0, .res1, .pixIdx, .payBase, .payLen, .gridBase, .gridW, .gridH, .outBase,
    .outMax]

/-- They read 0 whatever LMEM, the script and the returned reads are. -/
theorem readReg_powerOn (p : Platform) (m : Memory) (es : List Event) (ws : List Word) {r : Reg}
    (hr : r ∈ zeroAtResetRegs) : readReg r { State.powerOn p with lmem := m, script := es, reads := ws } = 0 := by
  cases r with
  | id | gridNch | lmemSize => simp [zeroAtResetRegs] at hr
  | ctrl => simp [readReg, ctrlWord, State.powerOn]
  | status => simp [readReg, statusWord, State.powerOn]
  | _ => rfl

/-- The reset input and power-on differ in LMEM only. -/
theorem step_of_reset_or_powerOn {e : Event} {es : List Event} (hs : s.script = e :: es)
    (he : e = .reset ∨ e = .powerOn) :
    step s = .next { State.powerOn s.platform with
      lmem := if e = .reset then s.lmem else []
      script := es
      reads := s.reads } := by
  rcases he with rfl | rfl
  · exact step_of_reset hs
  · exact step_of_powerOn hs

/-- Settles O49: the fields of the state after power-on, and LMEM by the event. -/
theorem resetLeavesRegisterValues : Obligations.ResetLeavesRegisterValues := by
  intro s e es hs he
  have hctrl := readReg_powerOn s.platform (if e = .reset then s.lmem else []) es s.reads (r := .ctrl) (by decide)
  have hstatus := readReg_powerOn s.platform (if e = .reset then s.lmem else []) es s.reads (r := .status) (by decide)
  refine ⟨_, step_of_reset_or_powerOn hs he, (readWindow_offset .ctrl _).trans hctrl,
    (readWindow_offset .status _).trans hstatus, rfl, rfl, rfl, rfl, rfl, rfl, rfl, rfl, rfl, rfl, rfl, rfl, rfl, rfl,
    rfl, fun hreset => if_pos hreset, ?_⟩
  rintro rfl a
  rfl

/-- Settles O50: each register at its offset. -/
theorem resetStateReads : Obligations.ResetStateReads := by
  have hzero : ∀ off ∈ zeroAtResetRegs.map Reg.offset, readWindow off State.reset = 0 :=
    List.forall_mem_map.2 fun r hr => (readWindow_offset r _).trans (readReg_powerOn Config.platform [] [] [] hr)
  exact ⟨readWindow_offset .id _, readWindow_offset .gridNch _, hzero, fun _ => rfl, rfl⟩

end Sys2Proof.Machine

/-! PROOFS. The host's side of memory (20_memory R63, R64, R66 to R69): the region tests, the register window as steps, the
LMEM window while idle, what is refused, and what is held while BUSY = 1. -/

namespace Sys2Proof.Machine

variable {s : State} {a : HostAccess} {es : List Event} {x off : Nat}

/-! Regions (20_memory R66 to R68). -/

theorem Region.contains_iff (r : Region) (a : Nat) : r.contains a = true ↔ r.base ≤ a ∧ a < r.base + r.size := by
  simp [Region.contains]

/-- A region that is not empty is in range when its last byte is. -/
theorem Region.inRange_iff_contains (r : Region) (n : Nat) :
    r.inRange n = true ↔ ∀ a, r.contains a = true → a < n := by
  simp only [Region.inRange, Bool.or_eq_true, beq_iff_eq, decide_eq_true_eq, Region.contains_iff]
  refine ⟨fun h a ha => by omega, fun h => ?_⟩
  have hlast := h (r.base + r.size - 1)
  omega

/-- Two regions that overlap share the greater of their bases. -/
theorem Region.overlaps_iff_contains (r q : Region) :
    r.overlaps q = true ↔ ∃ a, r.contains a = true ∧ q.contains a = true := by
  simp only [overlaps_iff, Region.contains_iff]
  constructor
  · intro h
    exact ⟨max r.base q.base, by omega, by omega⟩
  · rintro ⟨a, hr, hq⟩
    omega

/-- Settles O56: the last byte of a region, and the greater base of two. -/
theorem regionTests : Obligations.RegionTests := fun n r q => ⟨r.inRange_iff_contains n, r.overlaps_iff_contains q⟩

/-! Which host accesses are not held, and where those go (20_memory R60, R63, R64; 70_reset R312). -/

theorem inRegWindow_eq_false {p : Platform} (h : ¬ AtRegWindow p x) : inRegWindow p x = false := by
  rwa [← Bool.not_eq_true, inRegWindow_iff]

theorem inLmemWindow_eq_false {p : Platform} (h : ¬ AtLmemWindow p x) : inLmemWindow p x = false := by
  rwa [← Bool.not_eq_true, inLmemWindow_iff]

theorem hostHeld_of_idle (hb : s.busy = false) : hostHeld a s = false := by
  simp [hostHeld, hb]

theorem hostHeld_of_outside_lmem (hl : ¬ AtLmemWindow s.platform (accessAddr a)) : hostHeld a s = false := by
  simp [hostHeld, inLmemWindow_eq_false hl]

theorem hostHeld_of_illegal (hx : accessAddr a = s.platform.lmemBase + x)
    (hl : lmemAccessLegal s.platform.lmemBytes x (accessBytes a) = false) : hostHeld a s = false := by
  simp [hostHeld, hx, hl]

/-- A host access that is not held is a step of its own. -/
theorem step_of_not_held (hs : s.script = .host a :: es) (hh : hostHeld a s = false) :
    step s = hostStep a (setScript es s) := by
  simp [step_of_host hs, hh]

/-- An access in the register window only is a register access, BUSY or not. -/
theorem step_register (hs : s.script = .host a :: es) (hx : accessAddr a = s.platform.regBase + off) (hoff : off < 256)
    (hl : ¬ AtLmemWindow s.platform (accessAddr a)) : step s = hostRegisterStep off a (setScript es s) := by
  have hr : inRegWindow s.platform (accessAddr a) = true := (inRegWindow_iff ..).2 (by omega)
  have hsub : accessAddr a - s.platform.regBase = off := by omega
  rw [step_of_not_held hs (hostHeld_of_outside_lmem hl)]
  simp [hostStep, hr, inLmemWindow_eq_false hl, hsub]

/-- An access in the LMEM window only, when it is not held, is an LMEM access. -/
theorem step_lmem (hs : s.script = .host a :: es) (hh : hostHeld a s = false)
    (hx : accessAddr a = s.platform.lmemBase + x) (hlt : x < s.platform.lmemBytes)
    (hr : ¬ AtRegWindow s.platform (accessAddr a)) : step s = hostLmemStep x a (setScript es s) := by
  have hl : inLmemWindow s.platform (accessAddr a) = true := (inLmemWindow_iff ..).2 (by omega)
  have hsub : accessAddr a - s.platform.lmemBase = x := by omega
  rw [step_of_not_held hs hh]
  simp [hostStep, inRegWindow_eq_false hr, hl, hsub]

/-- The `requires` clause of an LMEM access is broken by another width, or by a word misaligned or beyond the end. -/
theorem lmemAccessLegal_eq_false {n bytes : Nat}
    (h : (bytes ≠ 1 ∧ bytes ≠ 4) ∨ (bytes = 4 ∧ (x % 4 ≠ 0 ∨ n < x + 4))) : lmemAccessLegal n x bytes = false := by
  rw [← Bool.not_eq_true, lmemAccessLegal_iff]
  omega

/-- Settles O47: an access that breaks a `requires` clause reaches its window unheld, and the window refuses it. -/
theorem busErrorsAreRefused : Obligations.BusErrorsAreRefused := by
  refine fun s access es hs => ⟨fun off hx hoff hl hbad => ?_, fun x hx hlt hr hbad => ?_, fun hr hl => ?_⟩
  · have hillegal : ¬ registerAccessLegal off (accessBytes access) = true := by
      simp only [registerAccessLegal, Bool.and_eq_true, beq_iff_eq]
      omega
    rw [step_register hs hx hoff hl]
    simp [hostRegisterStep, hillegal]
  · have hillegal := lmemAccessLegal_eq_false hbad
    rw [step_lmem hs (hostHeld_of_illegal hx hillegal) hx hlt hr]
    simp [hostLmemStep, hillegal]
  · rw [step_of_not_held hs (hostHeld_of_outside_lmem hl)]
    simp [hostStep, inRegWindow_eq_false hr, inLmemWindow_eq_false hl]

/-! Register accesses. -/

/-- The window does not show the script. -/
@[simp] theorem readWindow_setScript (off : Nat) (es : List Event) (s : State) :
    readWindow off (setScript es s) = readWindow off s := by
  unfold readWindow
  cases regAt off with
  | none => rfl
  | some r => cases r <;> rfl

/-- Settles O43: both kinds of access are steps of the register window. -/
theorem hostRegisterAccess : Obligations.HostRegisterAccess := by
  refine fun s off v es hoff h4 hl => ⟨fun hs => ?_, fun hs => step_writeWindow hoff h4 hs hl⟩
  have hlegal : registerAccessLegal off 4 = true := by simp [registerAccessLegal, h4]
  rw [step_register hs rfl hoff hl, hostRegisterStep, accessBytes, if_pos hlegal, readWindow_setScript]
  rfl

/-! LMEM accesses (20_memory R64, R69). -/

section Lmem

variable {n : Nat} {v : Word} (hl : lmemAccessLegal s.platform.lmemBytes x n = true)
  (hr : ¬ AtRegWindow s.platform (s.platform.lmemBase + x)) (hb : s.busy = false)
include hl hr hb

/-- While idle, a legal LMEM access is a step of its own. -/
theorem step_lmem_of_legal (hs : s.script = .host a :: es) (hx : accessAddr a = s.platform.lmemBase + x) :
    step s = hostLmemStep x a (setScript es s) := by
  obtain ⟨-, hw⟩ := atLmemWindow_of_legal hl
  exact step_lmem hs (hostHeld_of_idle hb) hx (by omega) (by rwa [hx])

theorem step_lmem_write (hs : s.script = .host (.write (s.platform.lmemBase + x) n v) :: es) :
    step s = .next (setLmem (hostWriteLmem s.lmem x n v) (setScript es s)) := by
  rw [step_lmem_of_legal hl hr hb hs rfl]
  simp [hostLmemStep, accessBytes, hl]

theorem step_lmem_read (hs : s.script = .host (.read (s.platform.lmemBase + x) n) :: es)
    (hv : hostReadLmem s x n = .ok v) : step s = .next (returnRead v (setScript es s)) := by
  have hv' : hostReadLmem (setScript es s) x n = .ok v := hv
  rw [step_lmem_of_legal hl hr hb hs rfl]
  simp [hostLmemStep, accessBytes, hl, hv']

theorem step_lmem_read_fault {f : Fault} (hs : s.script = .host (.read (s.platform.lmemBase + x) n) :: es)
    (hf : hostReadLmem s x n = .error f) : step s = .fault f := by
  have hf' : hostReadLmem (setScript es s) x n = .error f := hf
  rw [step_lmem_of_legal hl hr hb hs rfl]
  simp [hostLmemStep, accessBytes, hl, hf']

end Lmem

theorem lmemAccessLegal_byte {n : Nat} (h : x < n) : lmemAccessLegal n x 1 = true :=
  (lmemAccessLegal_iff ..).2 (.inl ⟨rfl, h⟩)

theorem lmemAccessLegal_word {n : Nat} (h4 : x % 4 = 0) (h : x + 4 ≤ n) : lmemAccessLegal n x 4 = true :=
  (lmemAccessLegal_iff ..).2 (.inr ⟨rfl, h4, h⟩)

theorem hostByte_of_read {b : Byte} (h : s.lmem.read x = some b) : hostByte s x = .ok b := by
  rw [hostByte, h]

theorem hostByte_of_unwritten (h : s.lmem.read x = none) : hostByte s x = .error (.hostUnwrittenRead x) := by
  rw [hostByte, h]

theorem hostReadLmem_byte {b : Byte} (h : s.lmem.read x = some b) : hostReadLmem s x 1 = .ok (b.setWidth 32) := by
  simp [hostReadLmem, hostByte_of_read h, bind, Except.bind]

/-- A word is read little-endian: the byte at the highest address is the most significant (20_memory R69). -/
theorem hostReadLmem_word {b0 b1 b2 b3 : Byte} (h0 : s.lmem.read x = some b0) (h1 : s.lmem.read (x + 1) = some b1)
    (h2 : s.lmem.read (x + 2) = some b2) (h3 : s.lmem.read (x + 3) = some b3) :
    hostReadLmem s x 4 = .ok (b3 ++ b2 ++ b1 ++ b0) := by
  simp [hostReadLmem, hostByte_of_read h0, hostByte_of_read h1, hostByte_of_read h2, hostByte_of_read h3, bind,
    Except.bind]

/-- A read of either width whose first byte is UNWRITTEN faults there. -/
theorem hostReadLmem_unwritten_first (n : Nat) (h : s.lmem.read x = none) :
    hostReadLmem s x n = .error (.hostUnwrittenRead x) := by
  simp [hostReadLmem, hostByte_of_unwritten h, bind, Except.bind]

/-- A word's bytes are read at rising addresses, so the read faults at the first UNWRITTEN one. -/
theorem hostReadLmem_word_unwritten {k : Nat} (hk : k < 4) (h : s.lmem.read (x + k) = none)
    (hw : ∀ j, j < k → (s.lmem.read (x + j)).isSome = true) :
    hostReadLmem s x 4 = .error (.hostUnwrittenRead (x + k)) := by
  have hread : ∀ j (hj : j < k), hostByte s (x + j) = .ok ((s.lmem.read (x + j)).get (hw j hj)) :=
    fun j hj => hostByte_of_read (Option.some_get _).symm
  have hfault := hostByte_of_unwritten h
  match k, hk with
  | 0, _ => exact hostReadLmem_unwritten_first 4 h
  | 1, _ => simp [hostReadLmem, show hostByte s x = _ from hread 0 (by omega), hfault, bind, Except.bind]
  | 2, _ =>
    simp [hostReadLmem, show hostByte s x = _ from hread 0 (by omega), hread 1 (by omega), hfault, bind, Except.bind]
  | 3, _ =>
    simp [hostReadLmem, show hostByte s x = _ from hread 0 (by omega), hread 1 (by omega), hread 2 (by omega), hfault,
      bind, Except.bind]

/-- Settles O46: the first byte of a 1-byte read, and the first UNWRITTEN byte of a word. -/
theorem hostUnwrittenReadFaults : Obligations.HostUnwrittenReadFaults := by
  refine fun s x es hb hr => ⟨fun hs hlt hn => ?_, fun k hs h4 hin hk hn hw => ?_⟩
  · exact step_lmem_read_fault (lmemAccessLegal_byte hlt) hr hb hs (hostReadLmem_unwritten_first 1 hn)
  · exact step_lmem_read_fault (lmemAccessLegal_word h4 hin) hr hb hs (hostReadLmem_word_unwritten hk hn hw)

theorem hostWriteLmem_byte (m : Memory) (x : Nat) (v : Word) : hostWriteLmem m x 1 v = m.write x (v.extractLsb' 0 8) :=
  rfl

/-- Settles O45: a write of one byte of LMEM, and its read. -/
theorem hostByteAccess : Obligations.HostByteAccess := by
  refine fun s x v es hb hlt hr => ⟨fun hs => ?_, fun b hs hread => ?_⟩
  · refine ⟨_, step_lmem_write (lmemAccessLegal_byte hlt) hr hb hs, rfl, ?_, fun y hy => ?_⟩
    · simp [hostWriteLmem_byte]
    · simp [hostWriteLmem_byte, Memory.read_write_other _ _ hy]
  · exact step_lmem_read (lmemAccessLegal_byte hlt) hr hb hs (hostReadLmem_byte hread)

/-- A byte of LMEM after a host write of a word: one of the word's four, or the old one (20_memory R64, R69). -/
theorem read_hostWriteLmem_word (m : Memory) (x y : Nat) (v : Word) :
    (hostWriteLmem m x 4 v).read y =
      if y = x + 3 then some (v.extractLsb' 24 8) else if y = x + 2 then some (v.extractLsb' 16 8)
      else if y = x + 1 then some (v.extractLsb' 8 8) else if y = x then some (v.extractLsb' 0 8) else m.read y := by
  simp [hostWriteLmem, Memory.read_write]

/-- A word is the concatenation of its four bytes. -/
theorem word_eq_append_bytes (v : Word) :
    v.extractLsb' 24 8 ++ v.extractLsb' 16 8 ++ v.extractLsb' 8 8 ++ v.extractLsb' 0 8 = v := by
  rw [BitVec.extractLsb'_append_extractLsb'_eq_extractLsb' (by omega),
    BitVec.extractLsb'_append_extractLsb'_eq_extractLsb' (by omega),
    BitVec.extractLsb'_append_extractLsb'_eq_extractLsb' (by omega)]
  exact BitVec.extractLsb'_eq_self

/-- Settles O44: the four bytes stored are the four bytes read, in the same order. -/
theorem hostWordIsLittleEndian : Obligations.HostWordIsLittleEndian := by
  intro s x v es hb h4 hin hr hs
  have hlegal := lmemAccessLegal_word h4 hin
  have h0 : (hostWriteLmem s.lmem x 4 v).read x = some (v.extractLsb' 0 8) := by simp [read_hostWriteLmem_word]
  have h1 : (hostWriteLmem s.lmem x 4 v).read (x + 1) = some (v.extractLsb' 8 8) := by simp [read_hostWriteLmem_word]
  have h2 : (hostWriteLmem s.lmem x 4 v).read (x + 2) = some (v.extractLsb' 16 8) := by simp [read_hostWriteLmem_word]
  have h3 : (hostWriteLmem s.lmem x 4 v).read (x + 3) = some (v.extractLsb' 24 8) := by simp [read_hostWriteLmem_word]
  refine ⟨_, step_lmem_write hlegal hr hb hs, rfl, h0, h1, h2, h3, fun y hy => ?_, fun es' => ?_⟩
  · rw [setLmem_lmem, read_hostWriteLmem_word, if_neg (by omega), if_neg (by omega), if_neg (by omega),
      if_neg (by omega)]
  · refine step_lmem_read (s := setScript (.host (.read (s.platform.lmemBase + x) 4) :: es')
      (setLmem (hostWriteLmem s.lmem x 4 v) (setScript es s))) hlegal hr hb rfl ?_
    rw [hostReadLmem_word h0 h1 h2 h3, word_eq_append_bytes]

/-! The hold (70_reset R311). -/

/-- Every core step ends with BUSY = 0 and takes nothing off the script. -/
theorem coreStep_busy_script {t : State} (h : coreStep s = .next t) : t.busy = false ∧ t.script = s.script := by
  obtain ⟨i, hi⟩ | rfl := coreStep_cases h
  · obtain ⟨hbusy, -, -, -, -, -, -, -, -, -, -, -, -, -, hscript, -⟩ := configurationIsNeverWritten i s t hi
    exact ⟨hbusy, hscript⟩
  · simp

/-- Settles O48: a held access leaves the step to the core. -/
theorem heldAccessWaitsForCore : Obligations.HeldAccessWaitsForCore := by
  intro s a es x hs hb hx hr hl
  have hheld : hostHeld a s = true := hostHeld_of_legal hb hx hr ((lmemAccessLegal_iff ..).2 hl)
  have hstep : step s = coreStep s := by rw [step_of_host hs, if_pos hheld]
  exact ⟨hstep, fun t ht => (coreStep_busy_script (hstep ▸ ht)).symm⟩

end Sys2Proof.Machine

/-! PROOFS. The LMEM bytes a command reads and writes (20_memory R61, R79; 60_exceptions R275): first what a command does with
and without its conditions, then each transform's faults, reads and frame, and from these the three statements. -/

namespace Sys2Proof.Machine

variable {s t : State} {f : Fault}

/-! How a fault passes through a command. -/

/-- A sequence of two parts that may fault fails exactly when its first part does, or its second after the first. -/
theorem except_bind_eq_error {ε α β : Type} {x : Except ε α} {g : α → Except ε β} {e : ε} :
    x >>= g = .error e ↔ x = .error e ∨ ∃ a, x = .ok a ∧ g a = .error e := by
  cases x <;> simp [bind, Except.bind]

/-- A transform followed by register writes faults exactly when the transform does. -/
theorem completeOrFault_bind_ok_fault {α : Type} {x : Except Fault α} {g : α → State} :
    completeOrFault (x >>= fun u => .ok (g u)) = .fault f ↔ x = .error f := by
  simp [completeOrFault_fault, except_bind_eq_error]

/-- A transform followed by register writes completes exactly when the transform succeeds. -/
theorem completeOrFault_bind_ok_next {α : Type} {x : Except Fault α} {g : α → State} :
    completeOrFault (x >>= fun u => .ok (g u)) = .next t ↔ ∃ u, x = .ok u ∧ t = finish (g u) := by
  simp [completeOrFault_next, except_bind_eq_ok]

/-! A command without its conditions ends with an error (60_exceptions R267). -/

theorem capacityOk_iff (s : State) :
    capacityOk s.payLen.toNat s.gridW.toNat s.gridH.toNat = true ↔ requiredPixels s ≤ (gridOf s).pixels := by
  simp [capacityOk, reqPixels_eq, gridOf, Grid.pixels]

theorem execEnc_of_not_ok (h : ¬ CommandOk .enc s) : ∃ r u, execEnc s = raise r u ∧ u.lmem = s.lmem := by
  unfold execEnc
  split
  case h_1 r _ => exact ⟨r, s, rfl, rfl⟩
  case h_2 hchecks =>
    have hcap : ¬ capacityOk s.payLen.toNat s.gridW.toNat s.gridH.toNat = true := fun hc =>
      h ⟨(payloadGridChecks_none_iff s).1 hchecks, (capacityOk_iff s).1 hc⟩
    rw [if_neg hcap]
    exact ⟨_, _, rfl, setCapOk_lmem ..⟩

/-- A command that does not meet its conditions ends with an error, and LMEM stays (60_exceptions R264). -/
theorem exec_of_not_commandOk {i : Instr} (h : ¬ CommandOk i s) : ∃ r u, exec i s = raise r u ∧ u.lmem = s.lmem := by
  cases i with
  | enc => exact execEnc_of_not_ok h
  | dec =>
    obtain ⟨r, hr⟩ := Option.ne_none_iff_exists'.1 fun hn => h ((gridOutputChecks_none_iff s).1 hn)
    exact ⟨r, s, by simp [exec, execDec, hr], rfl⟩
  | capq =>
    obtain ⟨r, hr⟩ := Option.ne_none_iff_exists'.1 fun hn => h ((payloadGridChecks_none_iff s).1 hn)
    exact ⟨r, s, by simp [exec, execCapq, hr], rfl⟩
  | dpix t0 t1 t2 =>
    obtain ⟨r, hr⟩ := Option.ne_none_iff_exists'.1 fun hn => h ((pixelChecks_none_iff s).1 hn)
    exact ⟨r, s, by simp [exec, execDpix, hr], rfl⟩
  | gpix =>
    obtain ⟨r, hr⟩ := Option.ne_none_iff_exists'.1 fun hn => h ((pixelChecks_none_iff s).1 hn)
    exact ⟨r, s, by simp [exec, execGpix, hr], rfl⟩
  | nop | unpk | padc | rpk | tdet => exact absurd trivial h

/-! A command that meets its conditions is its transform, then its register writes (46 R220). -/

theorem exec_enc_of_ok (h : CommandOk .enc s) :
    exec .enc s = completeOrFault (encodeGrid (setCapOk true s) >>= fun u =>
      .ok (writeRes1 (3 * requiredPixels s) (writeRes0 (requiredPixels s) u))) := by
  obtain ⟨hchecks, hcap⟩ := h
  simp [exec, execEnc, (payloadGridChecks_none_iff s).2 hchecks, (capacityOk_iff s).2 hcap, reqPixels_eq]

theorem exec_dec_of_ok (h : CommandOk .dec s) :
    exec .dec s = completeOrFault (decodeGrid s >>= fun d =>
      writeBytes s.outBase.toNat (d.1.take (min d.1.length s.outMax.toNat)) s >>= fun u =>
      .ok (setTrunc (truncates d.1.length s.outMax.toNat) (setTermFound d.2
        (writeRes1 (min d.1.length s.outMax.toNat) (writeRes0 d.1.length u))))) := by
  have hchecks : firstRaise (gridOutputChecks s) = none := (gridOutputChecks_none_iff s).2 h
  simp [exec, execDec, hchecks]

theorem exec_capq_of_ok (h : CommandOk .capq s) :
    exec .capq s = complete (setCapOk (decide (requiredPixels s ≤ (gridOf s).pixels))
      (writeRes1 (3 * requiredPixels s) (writeRes0 (requiredPixels s) s))) := by
  have hchecks : firstRaise (payloadGridChecks s) = none := (payloadGridChecks_none_iff s).2 h
  have hcap : capacityOk s.payLen.toNat s.gridW.toNat s.gridH.toNat = decide (requiredPixels s ≤ (gridOf s).pixels) :=
    Bool.eq_iff_iff.2 ((capacityOk_iff s).trans decide_eq_true_iff.symm)
  simp [exec, execCapq, hchecks, hcap, reqPixels_eq]

theorem exec_dpix_of_ok {t0 t1 t2 : Nibble} (h : CommandOk (.dpix t0 t1 t2) s) :
    exec (.dpix t0 t1 t2) s = completeOrFault (embedPixel (.dpix t0 t1 t2) (gridOf s) s.pixIdx.toNat
      (t0.setWidth 8) (t1.setWidth 8) (t2.setWidth 8) s >>= fun u => .ok (writePixIdx (s.pixIdx.toNat + 1) u)) := by
  have hchecks : firstRaise (pixelChecks s) = none := (pixelChecks_none_iff s).2 h
  simp [exec, execDpix, hchecks]

theorem exec_gpix_of_ok (h : CommandOk .gpix s) :
    exec .gpix s = completeOrFault (extractPixel .gpix (gridOf s) s.pixIdx.toNat s >>= fun d =>
      .ok (writePixIdx (s.pixIdx.toNat + 1)
        (writeRes0 (d.1.toNat <<< 16 ||| d.2.1.toNat <<< 8 ||| d.2.2.toNat) s))) := by
  have hchecks : firstRaise (pixelChecks s) = none := (pixelChecks_none_iff s).2 h
  simp [exec, execGpix, hchecks]

/-- Every command ends as a transform that may fault does: an error is a completion too (60_exceptions R260). -/
theorem exec_eq_completeOrFault (i : Instr) (s : State) : ∃ x, exec i s = completeOrFault x := by
  by_cases h : CommandOk i s
  · cases i with
    | enc => exact ⟨_, exec_enc_of_ok h⟩
    | dec => exact ⟨_, exec_dec_of_ok h⟩
    | capq => exact ⟨.ok _, exec_capq_of_ok h⟩
    | dpix => exact ⟨_, exec_dpix_of_ok h⟩
    | gpix => exact ⟨_, exec_gpix_of_ok h⟩
    | nop | unpk | padc | rpk | tdet => exact ⟨.ok _, rfl⟩
  · obtain ⟨r, u, hx, -⟩ := exec_of_not_commandOk h
    exact ⟨.ok (recordError r u), hx⟩

/-! The transforms. -/

theorem ConfigOk.three_le_nch (h : ConfigOk s) : 3 ≤ (gridOf s).nch := by
  rcases h.nch with h | h <;> omega

/-- R, G and B of the pixels of a legal grid lie in LMEM. -/
theorem ConfigOk.channel_lt (hcfg : ConfigOk s) (hreg : RegionOk s (gridOf s).region) {p c : Nat}
    (hp : p < (gridOf s).pixels) (hc : c < 3) : (gridOf s).addr p c < s.platform.lmemBytes :=
  hreg.addr_lt hp (lt_of_lt_of_le hc hcfg.three_le_nch)

theorem encode_length {u : List Byte} (hu : u.length = s.payLen.toNat) :
    (padSeq (nibbleSeq u)).length = 3 * requiredPixels s := by
  rw [padSeq_length, nibbleSeq_length, hu, requiredPixels]

/-- The pixels ENC consumes have their channels in LMEM. -/
theorem encode_channel_lt (h : CommandOk .enc s) (k : Nat) (hk : k < requiredPixels s) (c : Nat) (hc : c < 3) :
    (gridOf s).addr (0 + k) c < s.platform.lmemBytes := by
  obtain ⟨⟨hcfg, -, hreg, -⟩, hcap⟩ := h
  exact hcfg.channel_lt hreg (by omega) hc

theorem encodeGrid_error (h : CommandOk .enc s) (hx : encodeGrid s = .error f) :
    ∃ a, mayRead .enc s a ∧ s.lmem.read a = none ∧ f = .unwrittenRead a .enc := by
  obtain ⟨hcfg, hpay, -, -⟩ := h.1
  obtain hr | ⟨u, hu, hw⟩ := except_bind_eq_error.1 hx
  · obtain ⟨j, hj, hn, rfl⟩ := readBytes_error hpay hr
    exact ⟨_, .inl ⟨Nat.le_add_right .., Nat.add_lt_add_left hj _⟩, hn, rfl⟩
  · obtain ⟨k, hk, c, hc, hn, rfl⟩ :=
      writeTriples_error hcfg.three_le_nch (encode_length (readBytes_ok hu).1) (encode_channel_lt h) hw
    exact ⟨_, .inr ⟨0 + k, by omega, c, hc, rfl⟩, hn, rfl⟩

theorem encodeGrid_ok_reads (h : CommandOk .enc s) (hx : encodeGrid s = .ok t) {a : Nat} (ha : mayRead .enc s a) :
    (s.lmem.read a).isSome = true := by
  obtain ⟨u, hu, hw⟩ := except_bind_eq_ok.1 hx
  obtain ⟨hlen, hread⟩ := readBytes_ok hu
  obtain ⟨hlo, hhi⟩ | ⟨p, hp, c, hc, rfl⟩ := ha
  · obtain ⟨j, rfl⟩ := Nat.exists_eq_add_of_le hlo
    have hj : j < u.length := by omega
    rw [hread j (by omega), List.getElem?_eq_getElem hj]
    rfl
  · have := writeTriples_ok_reads h.1.1.three_le_nch (encode_length hlen) (encode_channel_lt h) hw p hp c hc
    rwa [Nat.zero_add] at this

theorem encodeGrid_frame (h : CommandOk .enc s) (hx : encodeGrid s = .ok t) {a : Nat}
    (ha : ¬ IsChannelOf s (requiredPixels s) a) : t.lmem.read a = s.lmem.read a := by
  obtain ⟨u, hu, hw⟩ := except_bind_eq_ok.1 hx
  have hlen := encode_length (readBytes_ok hu).1
  have hnch := h.1.1.three_le_nch
  obtain ⟨m, hok, -, hframe, -⟩ := writeTriples_spec hnch hlen (encode_channel_lt h)
    (writeTriples_ok_reads hnch hlen (encode_channel_lt h) hw)
  cases hw.symm.trans hok
  exact hframe a fun k hk c hc he => ha ⟨0 + k, by omega, c, hc, he⟩

theorem decodeGrid_error (h : CommandOk .dec s) (hx : decodeGrid s = .error f) :
    ∃ a, mayRead .dec s a ∧ s.lmem.read a = none ∧ f = .unwrittenRead a .dec := by
  obtain ⟨hcfg, hreg, -⟩ := h
  obtain hr | ⟨q, -, hq⟩ := except_bind_eq_error.1 hx
  · obtain ⟨k, hk, c, hc, hn, rfl⟩ :=
      gatherPixels_error (fun k hk c hc => hcfg.channel_lt hreg (by omega) hc) hr
    exact ⟨_, ⟨0 + k, by omega, c, hc, rfl⟩, hn, rfl⟩
  · cases hq

theorem decodeGrid_ok_reads {d : List Byte × Bool} (hx : decodeGrid s = .ok d) {a : Nat} (ha : mayRead .dec s a) :
    (s.lmem.read a).isSome = true := by
  obtain ⟨q, hq, -⟩ := except_bind_eq_ok.1 hx
  obtain ⟨p, hp, c, hc, rfl⟩ := ha
  have := gatherPixels_ok_reads hq p hp c hc
  rwa [Nat.zero_add] at this

/-- The first bytes of a result, as many as OUT_MAX allows, are stored: LMEM beyond them stays (46 R233). -/
theorem writeBytes_output (h : RegionOk s (outputRegion s)) (r : List Byte) :
    ∃ m, writeBytes s.outBase.toNat (r.take (min r.length s.outMax.toNat)) s = .ok (setLmem m s) ∧
      ∀ x, ¬ (s.outBase.toNat ≤ x ∧ x < s.outBase.toNat + min r.length s.outMax.toNat) →
        m.read x = s.lmem.read x := by
  have hlen : (r.take (min r.length s.outMax.toNat)).length = min r.length s.outMax.toNat := by simp
  have hin : r.take (min r.length s.outMax.toNat) = [] ∨
      s.outBase.toNat + (r.take (min r.length s.outMax.toNat)).length ≤ s.platform.lmemBytes := by
    rw [← List.length_eq_zero_iff, hlen]
    change s.outMax.toNat = 0 ∨ s.outBase.toNat + s.outMax.toNat ≤ _ at h
    omega
  obtain ⟨m, hok, -, hframe, -⟩ := writeBytes_spec hin
  exact ⟨m, hok, by rwa [hlen] at hframe⟩

/-- The three channels of the pixel at PIX_IDX lie in LMEM. -/
theorem PixelOk.channel_lt (h : PixelOk s) (c : Nat) (hc : c < 3) :
    (gridOf s).addr s.pixIdx.toNat c < s.platform.lmemBytes := by
  obtain ⟨hcfg, hreg, hidx⟩ := h
  exact hcfg.channel_lt hreg hidx hc

theorem embedPixel_frame {i : Instr} {n0 n1 n2 : Slot} (h : PixelOk s)
    (hx : embedPixel i (gridOf s) s.pixIdx.toNat n0 n1 n2 s = .ok t) {a : Nat} (ha : ¬ IsPixelChannel s a) :
    t.lmem.read a = s.lmem.read a := by
  have hw := embedPixel_ok_reads h.channel_lt hx
  obtain ⟨v0, h0⟩ := hw 0 (by omega)
  obtain ⟨v1, h1⟩ := hw 1 (by omega)
  obtain ⟨v2, h2⟩ := hw 2 (by omega)
  have hne : ∀ c, c < 3 → a ≠ (gridOf s).addr s.pixIdx.toNat c := fun c hc he => ha ⟨c, hc, he⟩
  cases hx.symm.trans (embedPixel_of_read h.channel_lt h0 h1 h2)
  rw [setLmem_lmem, read_write3, if_neg (hne 2 (by omega)), if_neg (hne 1 (by omega)), if_neg (hne 0 (by omega))]

/-! The statements. -/

/-- Settles O30: without its conditions a command has no fault, and with them its fault is its transform's. -/
theorem onlyUnwrittenReadsFault : Obligations.OnlyUnwrittenReadsFault := by
  intro i s f hx
  by_cases h : CommandOk i s
  · cases i with
    | enc =>
      rw [exec_enc_of_ok h, completeOrFault_bind_ok_fault] at hx
      exact encodeGrid_error (s := setCapOk true s) h hx
    | dec =>
      rw [exec_dec_of_ok h, completeOrFault_fault, except_bind_eq_error] at hx
      obtain hd | ⟨d, -, hw⟩ := hx
      · exact decodeGrid_error h hd
      · obtain ⟨m, hok, -⟩ := writeBytes_output h.2.2.1 d.1
        rw [hok] at hw
        cases hw
    | dpix t0 t1 t2 =>
      rw [exec_dpix_of_ok h, completeOrFault_bind_ok_fault] at hx
      obtain ⟨c, hc, hn, rfl⟩ := embedPixel_error (PixelOk.channel_lt h) hx
      exact ⟨_, ⟨c, hc, rfl⟩, hn, rfl⟩
    | gpix =>
      rw [exec_gpix_of_ok h, completeOrFault_bind_ok_fault] at hx
      obtain ⟨c, hc, hn, rfl⟩ := extractPixel_error (PixelOk.channel_lt h) hx
      exact ⟨_, ⟨c, hc, rfl⟩, hn, rfl⟩
    | capq => rw [exec_capq_of_ok h] at hx; cases hx
    | nop | unpk | padc | rpk | tdet => cases hx
  · obtain ⟨r, u, hr, -⟩ := exec_of_not_commandOk h
    cases hr.symm.trans hx

/-- A command that completes on its conditions has read its whole footprint (46 R231). -/
theorem exec_next_reads {i : Instr} (h : CommandOk i s) (hx : exec i s = .next t) {a : Nat} (ha : mayRead i s a) :
    (s.lmem.read a).isSome = true := by
  cases i with
  | enc =>
    rw [exec_enc_of_ok h, completeOrFault_bind_ok_next] at hx
    obtain ⟨u, hu, -⟩ := hx
    exact encodeGrid_ok_reads (s := setCapOk true s) h hu ha
  | dec =>
    rw [exec_dec_of_ok h, completeOrFault_next] at hx
    obtain ⟨u, hu, -⟩ := hx
    obtain ⟨d, hd, -⟩ := except_bind_eq_ok.1 hu
    exact decodeGrid_ok_reads hd ha
  | dpix t0 t1 t2 =>
    rw [exec_dpix_of_ok h, completeOrFault_bind_ok_next] at hx
    obtain ⟨u, hu, -⟩ := hx
    obtain ⟨c, hc, rfl⟩ := ha
    exact Option.isSome_iff_exists.2 (embedPixel_ok_reads (PixelOk.channel_lt h) hu c hc)
  | gpix =>
    rw [exec_gpix_of_ok h, completeOrFault_bind_ok_next] at hx
    obtain ⟨d, hd, -⟩ := hx
    obtain ⟨c, hc, rfl⟩ := ha
    exact extractPixel_ok_reads hd c hc
  | nop | capq | unpk | padc | rpk | tdet => exact ha.elim

/-- Settles O31: a completion would have read the UNWRITTEN byte, and any fault is an UNWRITTEN_READ. -/
theorem unwrittenFootprintFaults : Obligations.UnwrittenFootprintFaults := by
  intro i s a h ha hn
  obtain ⟨x, hx⟩ := exec_eq_completeOrFault i s
  cases x with
  | ok u =>
    have hsome := exec_next_reads h hx ha
    simp [hn] at hsome
  | error f =>
    obtain ⟨b, -, -, rfl⟩ := onlyUnwrittenReadsFault i s f hx
    exact ⟨b, hx⟩

/-- Settles O36: without its conditions a command leaves LMEM, and with them it stores its transform's bytes only. -/
theorem writeFootprint : Obligations.WriteFootprint := by
  intro i s t hx a ha
  by_cases h : CommandOk i s
  · cases i with
    | enc =>
      rw [exec_enc_of_ok h, completeOrFault_bind_ok_next] at hx
      obtain ⟨u, hu, rfl⟩ := hx
      exact encodeGrid_frame (s := setCapOk true s) h hu ha
    | dec =>
      rw [exec_dec_of_ok h, completeOrFault_next] at hx
      obtain ⟨u, hu, rfl⟩ := hx
      obtain ⟨d, -, hw⟩ := except_bind_eq_ok.1 hu
      obtain ⟨m, hok, hframe⟩ := writeBytes_output h.2.2.1 d.1
      obtain ⟨v, hv, ⟨⟩⟩ := except_bind_eq_ok.1 hw
      cases hv.symm.trans hok
      have hres1 : (BitVec.ofNat 32 (min d.1.length s.outMax.toNat)).toNat = min d.1.length s.outMax.toNat := by
        rw [BitVec.toNat_ofNat, Nat.mod_eq_of_lt (by omega)]
      refine hframe a fun hin => ha ?_
      change _ ∧ a < _ + (BitVec.ofNat 32 _).toNat
      rwa [hres1]
    | dpix t0 t1 t2 =>
      rw [exec_dpix_of_ok h, completeOrFault_bind_ok_next] at hx
      obtain ⟨u, hu, rfl⟩ := hx
      exact embedPixel_frame h hu ha
    | gpix =>
      rw [exec_gpix_of_ok h, completeOrFault_bind_ok_next] at hx
      obtain ⟨d, -, rfl⟩ := hx
      rfl
    | capq => rw [exec_capq_of_ok h] at hx; cases hx; rfl
    | nop | unpk | padc | rpk | tdet => cases hx; rfl
  · obtain ⟨r, u, hr, hu⟩ := exec_of_not_commandOk h
    obtain rfl := raise_next.1 (hr.symm.trans hx)
    simp [hu]

end Sys2Proof.Machine

/-! PROOFS. The command words (30_encoding R91 to R98): a word and a row of the opcode map read as OP, SUB, MBZ bits and
operands, from this the rows as the words that encode their own command, and from these the statements about decoding and
assembling. -/

namespace Sys2Proof

/-! A word read in parts. -/

/-- A concatenation is the vector whose high and low parts are the two sides. -/
theorem append_eq_iff {n m : Nat} {w : BitVec (n + m)} {x : BitVec n} {y : BitVec m} :
    x ++ y = w ↔ w.extractLsb' m n = x ∧ w.extractLsb' 0 m = y := by
  constructor
  · rintro rfl
    exact ⟨BitVec.extractLsb'_append_eq_left, BitVec.extractLsb'_append_eq_right⟩
  · rintro ⟨rfl, rfl⟩
    rw [BitVec.extractLsb'_append_extractLsb'_eq_extractLsb' (by omega), BitVec.extractLsb'_eq_self]

/-- A part of a vector is a concatenation when its two halves are the two sides. -/
theorem extractLsb'_eq_append_iff {N k n m : Nat} {w : BitVec N} {x : BitVec n} {y : BitVec m} :
    w.extractLsb' k (n + m) = x ++ y ↔ w.extractLsb' (k + m) n = x ∧ w.extractLsb' k m = y := by
  rw [eq_comm, ← BitVec.extractLsb'_append_extractLsb'_eq_extractLsb' rfl, append_eq_iff,
    BitVec.extractLsb'_append_eq_left, BitVec.extractLsb'_append_eq_right]

/-- A word is a command's when OP, SUB and IMM24 are the command's (30_encoding R91). -/
theorem encode_eq_iff {i : Instr} {w : Word} :
    encode i = w ↔ opField w = opcodeOf i ∧ subField w = 0 ∧ n24Field w = imm24Of i := by
  rw [encode, append_eq_iff, extractLsb'_eq_append_iff, and_assoc]
  rfl

/-- The fixed bits of a format: OP, SUB = 0 and the MBZ bits below them (30_encoding R92, R94). -/
theorem fixedBits_eq_iff {k n : Nat} (hkn : k + n = 24) {w : Word} (op : BitVec 4) :
    w.extractLsb' k (4 + 4 + n) = op ++ 0#4 ++ 0#n ↔ opField w = op ∧ subField w = 0 ∧ w.extractLsb' k n = 0 := by
  rw [extractLsb'_eq_append_iff, hkn, extractLsb'_eq_append_iff, and_assoc]
  rfl

/-! IMM24 by format (30_encoding R92): the MBZ bits are 0, and each operand stands in its field. -/

section Formats

variable {w : Word}

theorem n24Field_eq_unpk_iff {b : Byte} :
    n24Field w = imm24Of (.unpk b) ↔ w.extractLsb' 8 16 = 0 ∧ lowByteField w = b :=
  extractLsb'_eq_append_iff (x := 0#16) (y := b)

theorem n24Field_eq_tdet_iff {b : Byte} :
    n24Field w = imm24Of (.tdet b) ↔ w.extractLsb' 8 16 = 0 ∧ lowByteField w = b :=
  n24Field_eq_unpk_iff

theorem n24Field_eq_rpk_iff {s0 s1 : Slot} :
    n24Field w = imm24Of (.rpk s0 s1) ↔ w.extractLsb' 16 8 = 0 ∧ s0Field w = s0 ∧ lowByteField w = s1 :=
  (extractLsb'_eq_append_iff (x := 0#8 ++ s0) (y := s1)).trans (by rw [extractLsb'_eq_append_iff, and_assoc]; rfl)

theorem n24Field_eq_dpix_iff {t0 t1 t2 : Nibble} :
    n24Field w = imm24Of (.dpix t0 t1 t2) ↔
      w.extractLsb' 12 12 = 0 ∧ t0Field w = t0 ∧ t1Field w = t1 ∧ t2Field w = t2 :=
  (extractLsb'_eq_append_iff (x := 0#12 ++ t0 ++ t1) (y := t2)).trans
    (by rw [extractLsb'_eq_append_iff, extractLsb'_eq_append_iff, and_assoc, and_assoc]; rfl)

end Formats

/-! The rows of the opcode map. -/

/-- Which words each row of the opcode map selects, in the table's order: by OP, SUB and the MBZ bits, of which format C
has none (30_encoding R92, R94). -/
theorem opcodeMap_selects_fields (w : Word) :
    opcodeMap.map (fun r => r.selects w = true) =
      [ opField w = 0x0 ∧ subField w = 0 ∧ w.extractLsb' 0 24 = 0,
        opField w = 0x1 ∧ subField w = 0 ∧ w.extractLsb' 0 24 = 0,
        opField w = 0x2 ∧ subField w = 0 ∧ w.extractLsb' 0 24 = 0,
        opField w = 0x3 ∧ subField w = 0 ∧ w.extractLsb' 0 24 = 0,
        opField w = 0x4 ∧ subField w = 0 ∧ w.extractLsb' 8 16 = 0,
        opField w = 0x5 ∧ subField w = 0 ∧ w.extractLsb' 24 0 = 0,
        opField w = 0x6 ∧ subField w = 0 ∧ w.extractLsb' 12 12 = 0,
        opField w = 0x7 ∧ subField w = 0 ∧ w.extractLsb' 0 24 = 0,
        opField w = 0x8 ∧ subField w = 0 ∧ w.extractLsb' 16 8 = 0,
        opField w = 0x9 ∧ subField w = 0 ∧ w.extractLsb' 8 16 = 0 ] := by
  have hsel := congrArg (List.map (· = true)) (opcodeMap_selects w)
  simp only [List.map_map, Function.comp_def, List.map_cons, List.map_nil, decide_eq_true_iff] at hsel
  simp only [← fixedBits_eq_iff]
  exact hsel

/-- A row selects the words that encode the row's own command. -/
theorem selects_iff_encode_command {r : OpcodeRow} (hr : r ∈ opcodeMap) (w : Word) :
    r.selects w = true ↔ encode (r.command w) = w := by
  have hmap : opcodeMap.map (fun r => r.selects w = true) = opcodeMap.map (fun r => encode (r.command w) = w) := by
    rw [opcodeMap_selects_fields]
    simp only [opcodeMap, List.map_cons, encode_eq_iff, opcodeOf, n24Field_eq_unpk_iff, n24Field_eq_tdet_iff,
      n24Field_eq_rpk_iff, n24Field_eq_dpix_iff]
    simp [n24Field, imm24Of]
  exact iff_of_eq (List.map_inj_left.1 hmap r hr)

/-- The rows have different opcodes. -/
theorem opcodeMap_opcodes_differ :
    opcodeMap.Pairwise fun r q => ∀ w : Word, opcodeOf (r.command w) ≠ opcodeOf (q.command w) := by
  simp [opcodeMap, opcodeOf]

/-- Settles O4: a row selects only words with the opcode of the row's command. -/
theorem opcodeRowsDisjoint : Obligations.OpcodeRowsDisjoint := by
  refine opcodeMap_opcodes_differ.imp_of_mem fun hr hq hne w ⟨hrw, hqw⟩ => hne w ?_
  obtain ⟨hopr, -⟩ := encode_eq_iff.1 ((selects_iff_encode_command hr w).1 hrw)
  obtain ⟨hopq, -⟩ := encode_eq_iff.1 ((selects_iff_encode_command hq w).1 hqw)
  exact hopr.symm.trans hopq

/-! Decoding. -/

/-- A word selects one row at most (30_encoding R94). -/
theorem row_unique {r q : OpcodeRow} {w : Word} (hr : r ∈ opcodeMap) (hq : q ∈ opcodeMap) (hrw : r.selects w = true)
    (hqw : q.selects w = true) : r = q := by
  have hsymm : Std.Symm fun r q : OpcodeRow => ∀ w : Word, ¬ (r.selects w = true ∧ q.selects w = true) :=
    ⟨fun _ _ h w hsel => h w hsel.symm⟩
  by_contra hne
  exact opcodeRowsDisjoint.forall hr hq hne w ⟨hrw, hqw⟩

/-- A word is legal, with the command of the row that finds it, or no row selects it (30_encoding R95). -/
theorem decode_cases (w : Word) :
    (∃ r ∈ opcodeMap, r.selects w = true ∧ decode w = .ok (r.command w)) ∨
      (∀ r ∈ opcodeMap, ¬ r.selects w = true) ∧ ∃ e, decode w = .error e := by
  unfold decode
  split
  case h_1 r hfind =>
    exact .inl ⟨r, List.mem_of_find?_eq_some hfind, List.find?_some (p := fun r : OpcodeRow => r.selects w) hfind, rfl⟩
  case h_2 hfind => exact .inr ⟨List.find?_eq_none.1 hfind, _, rfl⟩

/-- A row that selects a word gives its command, wherever the row stands in the map (30_encoding R95). -/
theorem decode_of_selects {r : OpcodeRow} {w : Word} (hr : r ∈ opcodeMap) (hrw : r.selects w = true) :
    decode w = .ok (r.command w) := by
  obtain ⟨q, hq, hqw, hok⟩ | ⟨hnone, -⟩ := decode_cases w
  · rw [hok, row_unique hq hr hqw hrw]
  · exact absurd hrw (hnone r hr)

/-- A word is illegal when no entry of the list of the rows' selections holds (30_encoding R96). -/
theorem decode_error_iff (w : Word) :
    (∃ e, decode w = .error e) ↔ ∀ p ∈ opcodeMap.map (fun r => r.selects w = true), ¬ p := by
  rw [List.forall_mem_map]
  obtain ⟨r, hr, hsel, hok⟩ | ⟨hnone, herr⟩ := decode_cases w
  · exact iff_of_false (by simp [hok]) fun h => h r hr hsel
  · exact iff_of_true herr hnone

/-- The row of a command gives it back from its word: the operand fields of the word are the operands. -/
theorem exists_row_command_encode (i : Instr) : ∃ r ∈ opcodeMap, r.command (encode i) = i := by
  obtain ⟨-, -, himm⟩ := encode_eq_iff.1 (Eq.refl (encode i))
  cases i with
  | nop | enc | dec | capq | gpix => simp [opcodeMap]
  | unpk b => simp [opcodeMap, n24Field_eq_unpk_iff.1 himm]
  | padc n => simp [opcodeMap, himm, imm24Of]
  | dpix t0 t1 t2 => simp [opcodeMap, n24Field_eq_dpix_iff.1 himm]
  | rpk s0 s1 => simp [opcodeMap, n24Field_eq_rpk_iff.1 himm]
  | tdet b => simp [opcodeMap, n24Field_eq_tdet_iff.1 himm]

/-- Settles O1: the row that gives the command back from its word selects that word. -/
theorem decodeOfEncode : Obligations.DecodeOfEncode := by
  intro i
  obtain ⟨r, hr, hcmd⟩ := exists_row_command_encode i
  have hsel : r.selects (encode i) = true := (selects_iff_encode_command hr _).2 (by rw [hcmd])
  rw [decode_of_selects hr hsel, hcmd]

/-- Settles O2: the row that selects the word selects only words of its own command. -/
theorem encodeOfDecode : Obligations.EncodeOfDecode := by
  intro w i h
  obtain ⟨r, hr, hsel, hok⟩ | ⟨-, e, herr⟩ := decode_cases w
  · cases hok.symm.trans h
    exact (selects_iff_encode_command hr w).1 hsel
  · cases herr.symm.trans h

/-- Settles O3: with SUB = 0 and OP not reserved, the one row of that OP leaves its MBZ bits to decide. -/
theorem illegalExactlyWhenReserved : Obligations.IllegalExactlyWhenReserved := by
  intro w
  rw [decode_error_iff, opcodeMap_selects_fields]
  simp only [List.forall_mem_cons, opField, subField]
  generalize w.extractLsb' 28 4 = op
  have hop : 10 ≤ op.toNat ∨ op ∈ [0x0#4, 0x1#4, 0x2#4, 0x3#4, 0x4#4, 0x5#4, 0x6#4, 0x7#4, 0x8#4, 0x9#4] := by
    revert op; decide
  simp only [List.mem_cons, List.not_mem_nil, or_false] at hop
  by_cases hsub : w.extractLsb' 24 4 = 0#4
  · rcases hop with hop | rfl | rfl | rfl | rfl | rfl | rfl | rfl | rfl | rfl | rfl
    · have hne : ∀ k : BitVec 4, k.toNat < 10 → op ≠ k := by rintro k hk rfl; omega
      simp [hop, hne]
    all_goals simp [hsub]
  · simp [hsub]

/-! Assembling. -/

/-- A line assembles to a command's word, in range, when the word it writes has that word's value (30_encoding R98). -/
theorem assemble_eq_ite {l : AsmLine} {i : Instr} {p : Prop} [Decidable p] (hwf : l.wf = true ↔ p)
    (hword : p → asmWordNat l = (encode i).toNat) : assemble l = if p then some (encode i) else none := by
  by_cases h : p
  · rw [assemble, if_pos (hwf.2 h), if_pos h, hword h, BitVec.ofNat_toNat, BitVec.setWidth_eq]
  · rw [assemble, if_neg (mt hwf.1 h), if_neg h]

theorem toNat_append_eq_add {n m : Nat} (x : BitVec n) (y : BitVec m) : (x ++ y).toNat = x.toNat * 2 ^ m + y.toNat := by
  rw [BitVec.toNat_append, ← Nat.shiftLeft_add_eq_or_of_lt y.isLt, Nat.shiftLeft_eq]

/-- OP stands at bit 28 and IMM24 at bit 0 (30_encoding R91). -/
theorem encode_toNat (i : Instr) : (encode i).toNat = (opcodeOf i).toNat * 2 ^ 28 + (imm24Of i).toNat := by
  simp only [encode, toNat_append_eq_add, BitVec.toNat_ofNat]
  omega

/-- Settles O6: in range, each operand is the value of its field, so the line writes the value of the command's word. -/
theorem assemblerNeverTruncates : Obligations.AssemblerNeverTruncates := by
  refine ⟨fun b => assemble_eq_ite (by simp [AsmLine.wf]) ?_, fun n => assemble_eq_ite (by simp [AsmLine.wf]) ?_,
    fun t0 t1 t2 => assemble_eq_ite (by simp [AsmLine.wf, and_assoc]) ?_,
    fun s0 s1 => assemble_eq_ite (by simp [AsmLine.wf]) ?_, fun b => assemble_eq_ite (by simp [AsmLine.wf]) ?_,
    rfl, rfl, rfl, rfl, rfl⟩
  all_goals
    intro hrange
    simp only [asmWordNat, encode_toNat, opcodeOf, imm24Of, toNat_append_eq_add, BitVec.toNat_ofNat,
      BitVec.ofNat_eq_ofNat]
    omega

/-- Settles O5: each word is the word its command encodes to. -/
theorem decodeSpecWords : Obligations.DecodeSpecWords :=
  ⟨decodeOfEncode .enc, decodeOfEncode (.unpk 0x41), decodeOfEncode (.padc 0xFFFFFD), decodeOfEncode (.dpix 1 2 3),
    decodeOfEncode (.rpk 0x04 0xF2), decodeOfEncode (.tdet 0x80)⟩

/-! Execution. -/

/-- Settles O33: every command ends as a transform does, with a next state or the model fault. -/
theorem noCommandRefused : Obligations.NoCommandRefused := by
  intro i s r h
  obtain ⟨x, hx⟩ := Machine.exec_eq_completeOrFault i s
  rw [hx] at h
  cases x with
  | ok t => cases h
  | error f => cases h

end Sys2Proof

/-! PROOFS. The nibble unpacker (41_nibble_unpacker R120, R123): the two nibbles of a byte as quotient and remainder by 16,
two slots in one register as a sum, and from these the result of UNPK. -/

namespace Sys2Proof.Machine

/-- The high nibble as a number (41 R120): the mask takes nothing from a byte shifted right by four. -/
theorem highNibble_toNat (b : Byte) : (highNibble b).toNat = b.toNat / 16 := by
  have hmask : (highNibble b).toNat = b.toNat / 16 % 16 := by
    simp only [highNibble, BitVec.toNat_and, BitVec.toNat_ushiftRight, Nat.shiftRight_eq_div_pow]
    exact Nat.and_two_pow_sub_one_eq_mod _ 4
  omega

/-- The low nibble as a number (41 R120): the mask keeps the remainder by 16. -/
theorem lowNibble_toNat (b : Byte) : (lowNibble b).toNat = b.toNat % 16 := by
  simp only [lowNibble, BitVec.toNat_and]
  exact Nat.and_two_pow_sub_one_eq_mod _ 4

/-- Two slots side by side in bits [15:8] and [7:0] do not overlap, so joining them adds them. -/
theorem shiftLeft_or_slot_eq_add (x : Nat) (lo : Slot) : x <<< 8 ||| lo.toNat = 256 * x + lo.toNat := by
  rw [← Nat.shiftLeft_add_eq_or_of_lt lo.isLt, Nat.shiftLeft_eq, Nat.mul_comm]

/-- Settles O12: RES0 takes the sum of the two slots, each the number of its nibble. -/
theorem unpkSplitsByte : Obligations.UnpkSplitsByte := by
  intro b s
  calc exec (.unpk b) s
      = complete (writeRes0 ((highNibble b).toNat <<< 8 ||| (lowNibble b).toNat) s) := rfl
    _ = complete (writeRes0 (256 * (b.toNat / 16) + b.toNat % 16) s) := by
        rw [shiftLeft_or_slot_eq_add, highNibble_toNat, lowNibble_toNat]

end Sys2Proof.Machine

/-! PROOFS. The padding scheduler (42_padding_scheduler R140 to R146): the padding and capacity functions in closed form, the
check list that ENC and CAPQ share, read off check by check (60_exceptions R266, R267), and from these PADC, CAPQ, and what
CAPQ says about ENC. -/

namespace Sys2Proof.Machine

variable {s t : State}

/-! The unit functions. -/

/-- The padding table (42 R140). -/
theorem padCount_eq_ite (n : Nat) : padCount n = if n % 3 = 1 then 2 else if n % 3 = 2 then 1 else 0 := by
  obtain h | h | h : n % 3 = 0 ∨ n % 3 = 1 ∨ n % 3 = 2 := by omega
  all_goals simp [padCount, h]

/-- The closed form of ReqPixels, for every length (42 R142). -/
theorem reqPixels_eq_div (len : Nat) : reqPixels len = (2 * (len + 1) + 2) / 3 := by
  rw [reqPixels, add_padCount, Nat.mul_div_cancel_left _ (by decide)]

/-- MaxPayload is defined exactly on a grid with a pixel (42 R144). -/
theorem maxPayload_eq_some_iff {pixels m : Nat} : maxPayload pixels = some m ↔ pixels ≠ 0 ∧ m = 3 * pixels / 2 - 1 := by
  by_cases h : pixels = 0 <;> simp [maxPayload, h, eq_comm]

/-- Settles O54: the table is the definition at each remainder, and the rest follows from the sum's closed form. -/
theorem padTable : Obligations.PadTable := by
  intro n
  have htable := padCount_eq_ite n
  have hsum := add_padCount n
  refine ⟨fun h => by simpa [h] using htable, fun h => by simpa [h] using htable,
    fun h => by simpa [h] using htable, rfl, ?_, hsum, fun m hm h3 => ?_⟩
  · omega
  · omega

/-- Settles O55: P pixels fit exactly when 2 (L + 1) nibbles do, which is L + 1 ≤ 3 W H / 2. -/
theorem capacityClosedForms : Obligations.CapacityClosedForms := by
  refine ⟨fun k => ?_, fun len => ?_, fun len w h => ?_⟩
  · simp only [reqPixels_eq_div]
    omega
  · rw [reqPixels_eq_div]
    omega
  · have hfit : (2 * (len + 1) + 2) / 3 ≤ w * h ↔ w * h ≠ 0 ∧ len ≤ 3 * (w * h) / 2 - 1 := by omega
    simp only [capacityOk, decide_eq_true_eq, reqPixels_eq_div, hfit, maxPayload_eq_some_iff, and_assoc,
      exists_and_left, exists_eq_left]

/-! PADC and CAPQ. -/

/-- Settles O13: RES0 takes the padded length and RES1 the padding, each in closed form. -/
theorem padcComputesPadding : Obligations.PadcComputesPadding := by
  intro n s
  have hpad : BitVec.ofNat 32 (padCount n.toNat) = if n.toNat % 3 = 1 then 2 else if n.toNat % 3 = 2 then 1 else 0 := by
    rw [padCount_eq_ite]
    split_ifs <;> rfl
  calc exec (.padc n) s
      = complete (writeRes1 (padCount n.toNat) (writeRes0 (n.toNat + padCount n.toNat) s)) := rfl
    _ = complete (writeRes1 (padCount n.toNat) (writeRes0 (3 * ((n.toNat + 2) / 3)) s)) := by rw [add_padCount]
    _ = _ := by
        rw [← hpad]
        rfl

/-- Settles O16: with its checks passed, CAPQ is its three register writes and the completion. -/
theorem capqReportsCapacity : Obligations.CapqReportsCapacity := fun _ h => exec_capq_of_ok h

/-! Which check fails first (60_exceptions R266). -/

theorem firstRaise_cons (c : Bool × Raise) (l : List (Bool × Raise)) :
    firstRaise (c :: l) = if c.1 then some c.2 else firstRaise l := rfl

theorem checkConfig_fails_iff (s : State) : (checkConfig s).1 = true ↔ ¬ ConfigOk s := by
  rw [← nchLegal_iff, checkConfig, Bool.not_eq_true', Bool.not_eq_true]

theorem checkRange_fails_iff (s : State) (r : Region) (regionId : Word) :
    (checkRange s r regionId).1 = true ↔ ¬ RegionOk s r := by
  rw [← inRange_iff, checkRange, Bool.not_eq_true', Bool.not_eq_true]

theorem checkOverlap_fails_iff (r q : Region) (info : Word) :
    (checkOverlap r q info).1 = true ↔ RegionsOverlap r q := overlaps_iff r q

/-- Error entry, written out (60_exceptions R263, R264, R271). -/
theorem raise_eq_afterError (r : Raise) (s : State) : raise r s = .next (afterError r.cause.code r.info s) := by
  rw [raise, recordError_eq]
  rfl

/-- The order of the checks that ENC and CAPQ share (60_exceptions R266, R267). -/
theorem firstRaise_payloadGridChecks (s : State) : firstRaise (payloadGridChecks s) =
    if ¬ ConfigOk s then some ⟨.config, s.gridNch.setWidth 32⟩
    else if ¬ RegionOk s (payloadRegion s) then some ⟨.addrRange, 1⟩
    else if ¬ RegionOk s (gridOf s).region then some ⟨.addrRange, 2⟩
    else if RegionsOverlap (payloadRegion s) (gridOf s).region then some ⟨.overlap, 0x12⟩
    else none := by
  simp only [payloadGridChecks, firstRaise_cons, checkConfig_fails_iff, checkRange_fails_iff, checkOverlap_fails_iff]
  rfl

/-- ENC and CAPQ end at the first check of their common list that fails (42 R146; 46 R222). -/
theorem exec_of_payloadGridChecks {i : Instr} {r : Raise} (hi : i = .enc ∨ i = .capq)
    (hr : firstRaise (payloadGridChecks s) = some r) : exec i s = .next (afterError r.cause.code r.info s) := by
  rw [← raise_eq_afterError]
  obtain rfl | rfl := hi
  · simp only [exec, execEnc, hr]
  · simp only [exec, execCapq, hr]

/-- Settles O22: the conditions of each clause say which check of the list is the first to fail. -/
theorem encAndCapqErrorOrder : Obligations.EncAndCapqErrorOrder := by
  intro i s hi
  have hfirst := firstRaise_payloadGridChecks s
  refine ⟨fun hc => ?_, fun hc hp => ?_, fun hc hp hg => ?_, fun hc hp hg ho => ?_⟩
  · rw [if_pos hc] at hfirst
    exact exec_of_payloadGridChecks hi hfirst
  · rw [if_neg (not_not_intro hc), if_pos hp] at hfirst
    exact exec_of_payloadGridChecks hi hfirst
  · rw [if_neg (not_not_intro hc), if_neg (not_not_intro hp), if_pos hg] at hfirst
    exact exec_of_payloadGridChecks hi hfirst
  · rw [if_neg (not_not_intro hc), if_neg (not_not_intro hp), if_neg (not_not_intro hg), if_pos ho] at hfirst
    exact exec_of_payloadGridChecks hi hfirst

/-! CAPQ and ENC. -/

/-- A command that does not meet its conditions ends with ERR = 1 (60_exceptions R263, R267). -/
theorem exec_err_of_not_commandOk {i : Instr} (h : ¬ CommandOk i s) : ∃ t, exec i s = .next t ∧ t.err = true := by
  obtain ⟨r, u, hx, -⟩ := exec_of_not_commandOk h
  exact ⟨_, hx, recordError_err r u⟩

/-- ENC with its conditions met leaves ERR, when it ends (46 R226). -/
theorem exec_enc_err_of_ok (h : CommandOk .enc s) (hx : exec .enc s = .next t) : t.err = s.err := by
  rw [exec_enc_of_ok h, completeOrFault_bind_ok_next] at hx
  obtain ⟨u, hu, rfl⟩ := hx
  obtain ⟨m, rfl⟩ := encodeGrid_onlyLmemDiffers hu
  rfl

/-- From ERR = 0, ENC meets its conditions exactly when it does not end in error. -/
theorem commandOk_enc_iff (hs : s.err = false) :
    CommandOk .enc s ↔ ∀ t, exec .enc s = .next t → t.err = false := by
  refine ⟨fun h t hx => (exec_enc_err_of_ok h hx).trans hs, fun hall => ?_⟩
  by_contra h
  obtain ⟨t, hx, herr⟩ := exec_err_of_not_commandOk h
  simp [hall t hx] at herr

/-- Settles O27: without an error CAPQ's checks have passed, so CAP_OK is the one condition that ENC has besides them. -/
theorem capqPredictsEnc : Obligations.CapqPredictsEnc := by
  intro s t hs hx herr
  have hchecks : PayloadGridOk s := by
    by_contra h
    obtain ⟨u, hu, huerr⟩ := exec_err_of_not_commandOk (i := .capq) h
    cases hx.symm.trans hu
    simp [herr] at huerr
  have hcap : t.capOk = decide (requiredPixels s ≤ (gridOf s).pixels) := by
    cases hx.symm.trans (capqReportsCapacity s hchecks)
    rfl
  calc t.capOk = true
      ↔ requiredPixels s ≤ (gridOf s).pixels := by rw [hcap, decide_eq_true_iff]
    _ ↔ CommandOk .enc s := (and_iff_right hchecks).symm
    _ ↔ _ := commandOk_enc_iff hs

end Sys2Proof.Machine

/-! PROOFS. The pixel channel distributor (43_pixel_channel_distributor R160 to R167): row-major indexing, the check list of
DPIX and GPIX read off check by check (60_exceptions R266, R267), embedding and extraction on one pixel, and what ENC leaves
of the grid. -/

namespace Sys2Proof.Machine

variable {s t : State}

/-! Indexing (43 R160). -/

/-- A pixel of the grid has an index below W H: its row ends by the end of the last row. -/
theorem Grid.pixelIndex_lt {g : Grid} {x y : Nat} (hx : x < g.width) (hy : y < g.height) :
    g.pixelIndex x y < g.pixels := by
  calc y * g.width + x
      < y * g.width + g.width := Nat.add_lt_add_left hx _
    _ = (y + 1) * g.width := (Nat.succ_mul ..).symm
    _ ≤ g.height * g.width := Nat.mul_le_mul_right _ hy
    _ = g.width * g.height := Nat.mul_comm ..

theorem Grid.column_pixelIndex {g : Grid} {x : Nat} (y : Nat) (hx : x < g.width) : g.column (g.pixelIndex x y) = x := by
  rw [column, pixelIndex, Nat.mul_add_mod_self_right, Nat.mod_eq_of_lt hx]

theorem Grid.row_pixelIndex {g : Grid} {x : Nat} (y : Nat) (hx : x < g.width) : g.row (g.pixelIndex x y) = y := by
  rw [row, pixelIndex, Nat.mul_comm, Nat.mul_add_div (Nat.zero_lt_of_lt hx), Nat.div_eq_of_lt hx, Nat.add_zero]

/-- Settles O57: column and row are the remainder and the quotient by W. -/
theorem rowMajorIndexing : Obligations.RowMajorIndexing := by
  refine fun g => ⟨fun x y hx hy => ⟨Grid.pixelIndex_lt hx hy, Grid.column_pixelIndex y hx, Grid.row_pixelIndex y hx⟩,
    fun p hp => ?_⟩
  have hwidth : 0 < g.width := Nat.pos_of_mul_pos_right (Nat.zero_lt_of_lt hp)
  exact ⟨Nat.mod_lt p hwidth, Nat.div_lt_of_lt_mul hp, Nat.div_add_mod' p g.width⟩

/-! Which check of DPIX and GPIX fails first (60_exceptions R266). -/

/-- The order of the checks that DPIX and GPIX share (60_exceptions R266, R267). -/
theorem firstRaise_pixelChecks (s : State) : firstRaise (pixelChecks s) =
    if ¬ ConfigOk s then some ⟨.config, s.gridNch.setWidth 32⟩
    else if ¬ RegionOk s (gridOf s).region then some ⟨.addrRange, 2⟩
    else if (gridOf s).pixels ≤ s.pixIdx.toNat then some ⟨.pixRange, s.pixIdx⟩
    else none := by
  simp only [pixelChecks, firstRaise_cons, checkConfig_fails_iff, checkRange_fails_iff, decide_eq_true_eq]
  rfl

/-- DPIX and GPIX end at the first check of their common list that fails (43 R163, R166). -/
theorem exec_of_pixelChecks {i : Instr} (r : Raise) (hi : i = .gpix ∨ ∃ t0 t1 t2, i = .dpix t0 t1 t2)
    (hr : firstRaise (pixelChecks s) = some r) : exec i s = .next (afterError r.cause.code r.info s) := by
  rw [← raise_eq_afterError]
  obtain rfl | ⟨t0, t1, t2, rfl⟩ := hi
  · simp only [exec, execGpix, hr]
  · simp only [exec, execDpix, hr]

/-- Settles O25: the conditions of each clause say which check of the list is the first to fail. -/
theorem pixelCommandErrorOrder : Obligations.PixelCommandErrorOrder := by
  intro i s hi
  refine ⟨fun hc => ?_, fun hc hg => ?_, fun hc hg hp => ?_⟩
  · exact exec_of_pixelChecks ⟨.config, s.gridNch.setWidth 32⟩ hi (by rw [firstRaise_pixelChecks, if_pos hc])
  · exact exec_of_pixelChecks ⟨.addrRange, 2⟩ hi
      (by rw [firstRaise_pixelChecks, if_neg (not_not_intro hc), if_pos hg])
  · exact exec_of_pixelChecks ⟨.pixRange, s.pixIdx⟩ hi
      (by rw [firstRaise_pixelChecks, if_neg (not_not_intro hc), if_neg (not_not_intro hg), if_pos hp])

/-! One pixel (43 R162, R163, R166). -/

/-- A written byte reads as its value. -/
theorem read_eq_byteOr0 {a : Nat} (h : (s.lmem.read a).isSome = true) : s.lmem.read a = some (byteOr0 s a) := by
  obtain ⟨v, hv⟩ := Option.isSome_iff_exists.1 h
  rw [byteOr0, hv, Option.getD_some]

/-- The next pixel index, with the register's wrap (10_state R21). -/
theorem ofNat_toNat_add_one (x : Word) : BitVec.ofNat 32 (x.toNat + 1) = x + 1 := by
  rw [BitVec.ofNat_add, BitVec.ofNat_toNat, BitVec.setWidth_eq]
  rfl

/-- What embedding a triple in a pixel does to LMEM, when its three channels are written and in LMEM (43 R163). -/
theorem embedPixel_spec {i : Instr} {g : Grid} {p : Nat} {n0 n1 n2 : Slot}
    (hin : ∀ c, c < 3 → g.addr p c < s.platform.lmemBytes)
    (hw : ∀ c, c < 3 → (s.lmem.read (g.addr p c)).isSome = true) :
    ∃ m, embedPixel i g p n0 n1 n2 s = .ok (setLmem m s) ∧
      m.read (g.addr p 0) = some (embed (byteOr0 s (g.addr p 0)) n0) ∧
      m.read (g.addr p 1) = some (embed (byteOr0 s (g.addr p 1)) n1) ∧
      m.read (g.addr p 2) = some (embed (byteOr0 s (g.addr p 2)) n2) ∧
      ∀ a, (∀ c, c < 3 → a ≠ g.addr p c) → m.read a = s.lmem.read a := by
  have hread : ∀ c, c < 3 → s.lmem.read (g.addr p c) = some (byteOr0 s (g.addr p c)) :=
    fun c hc => read_eq_byteOr0 (hw c hc)
  refine ⟨_, embedPixel_of_read hin (hread 0 (by omega)) (hread 1 (by omega)) (hread 2 (by omega)), ?_, ?_, ?_,
    fun a ha => ?_⟩
  · simp [read_write3, Grid.addr]
  · simp [read_write3, Grid.addr]
  · exact Memory.read_write_same ..
  · rw [read_write3, if_neg (ha 2 (by omega)), if_neg (ha 1 (by omega)), if_neg (ha 0 (by omega))]

/-- Settles O17: on its conditions DPIX is one embedding at PIX_IDX, then the register writes. -/
theorem dpixEmbedsTriple : Obligations.DpixEmbedsTriple := by
  intro t0 t1 t2 s hok hw
  obtain ⟨m, hm, h0, h1, h2, hframe⟩ := embedPixel_spec (i := .dpix t0 t1 t2) hok.channel_lt hw
  refine ⟨finish (writePixIdx (s.pixIdx.toNat + 1) (setLmem m s)), ?_, ?_, h0, h1, h2,
    fun a ha => hframe a fun c hc he => ha ⟨c, hc, he⟩⟩
  · rw [exec_dpix_of_ok hok, completeOrFault_bind_ok_next]
    exact ⟨_, hm, rfl⟩
  · rw [← ofNat_toNat_add_one]
    rfl

/-- Three slots side by side in bits [23:16], [15:8] and [7:0] do not overlap, so joining them adds them. -/
theorem shiftLeft_or_slots_eq_add (x : Nat) (mid lo : Slot) :
    x <<< 16 ||| mid.toNat <<< 8 ||| lo.toNat = 65536 * x + 256 * mid.toNat + lo.toNat := by
  have hshift : x <<< 16 ||| mid.toNat <<< 8 = (x <<< 8 ||| mid.toNat) <<< 8 := by
    rw [Nat.shiftLeft_or_distrib, ← Nat.shiftLeft_add]
  rw [hshift, shiftLeft_or_slot_eq_add, shiftLeft_or_slot_eq_add]
  omega

/-- Settles O18: on its conditions GPIX is one extraction at PIX_IDX, whose three slots RES0 takes as a sum. -/
theorem gpixGathersTriple : Obligations.GpixGathersTriple := by
  intro s hok hw
  have hread : ∀ c, c < 3 → s.lmem.read ((gridOf s).addr s.pixIdx.toNat c) =
      some (byteOr0 s ((gridOf s).addr s.pixIdx.toNat c)) := fun c hc => read_eq_byteOr0 (hw c hc)
  rw [exec_gpix_of_ok hok, completeOrFault_bind_ok_next]
  refine ⟨_, extractPixel_of_read hok.channel_lt (hread 0 (by omega)) (hread 1 (by omega)) (hread 2 (by omega)), ?_⟩
  have hextract : ∀ v, (extract v).toNat = v.toNat % 16 := lowNibble_toNat
  rw [shiftLeft_or_slots_eq_add, hextract, hextract, hextract, ← ofNat_toNat_add_one]
  rfl

/-! ENC on the grid (43 R164, R167). -/

/-- A nibble in its slot has no bit above the low four, so embedding it keeps the high nibble (43 R162). -/
theorem embed_extractLsb'_high {v : Byte} {n : Slot} (hn : n.extractLsb' 4 4 = 0#4) :
    (embed v n).extractLsb' 4 4 = v.extractLsb' 4 4 := by
  have hmask : (0xF0 : Byte).extractLsb' 4 4 = BitVec.allOnes 4 := rfl
  rw [embed, BitVec.extractLsb'_or, BitVec.extractLsb'_and, hn, hmask, BitVec.and_allOnes, BitVec.or_zero]

/-- Every slot of the padded nibble sequence holds one nibble (41 R120; 42 R141). -/
theorem padSeq_nibbleSeq_high (u : List Byte) (k : Nat) :
    ((padSeq (nibbleSeq u)).getD k 0).extractLsb' 4 4 = 0#4 := by
  have hand : ∀ x : Byte, (x &&& 0x0F).extractLsb' 4 4 = 0#4 := fun x => by
    rw [BitVec.extractLsb'_and]
    exact BitVec.and_zero
  rw [padSeq_getD, nibbleSeq_getD]
  split
  · exact hand _
  · exact hand _

/-- ENC embeds the padded nibble sequence of the payload it has read, three slots to a pixel (43 R164; 46 R225). -/
theorem encodeGrid_channel (h : CommandOk .enc s) (hx : encodeGrid s = .ok t) :
    ∃ u, readBytes .enc s s.payBase.toNat s.payLen.toNat = .ok u ∧
      ∀ p, p < requiredPixels s → ∀ c, c < 3 → t.lmem.read ((gridOf s).addr p c) =
        (s.lmem.read ((gridOf s).addr p c)).map fun v => embed v ((padSeq (nibbleSeq u)).getD (3 * p + c) 0) := by
  obtain ⟨u, hu, hwrite⟩ := except_bind_eq_ok.1 hx
  have hlen := encode_length (readBytes_ok hu).1
  have hnch := h.1.1.three_le_nch
  obtain ⟨m, hok, hch, -⟩ := writeTriples_spec hnch hlen (encode_channel_lt h)
    (writeTriples_ok_reads hnch hlen (encode_channel_lt h) hwrite)
  cases hwrite.symm.trans hok
  exact ⟨u, hu, by simpa using hch⟩

/-- Each channel that ENC consumes keeps its high nibble (43 R167). -/
theorem encodeGrid_high (h : CommandOk .enc s) (hx : encodeGrid s = .ok t) {p c : Nat} (hp : p < requiredPixels s)
    (hc : c < 3) : ∃ old new, s.lmem.read ((gridOf s).addr p c) = some old
      ∧ t.lmem.read ((gridOf s).addr p c) = some new ∧ new.extractLsb' 4 4 = old.extractLsb' 4 4 := by
  obtain ⟨old, hold⟩ := Option.isSome_iff_exists.1 (encodeGrid_ok_reads h hx (.inr ⟨p, hp, c, hc, rfl⟩))
  obtain ⟨u, -, hch⟩ := encodeGrid_channel h hx
  refine ⟨old, _, hold, ?_, embed_extractLsb'_high (padSeq_nibbleSeq_high u (3 * p + c))⟩
  rw [hch p hp c hc, hold, Option.map_some]

/-- A channel of the grid is one of those ENC consumes only if its pixel and its number say so. -/
theorem isChannelOf_addr {n p c : Nat} (hcfg : ConfigOk s) (hc : c < (gridOf s).nch)
    (h : IsChannelOf s n ((gridOf s).addr p c)) : p < n ∧ c < 3 := by
  obtain ⟨q, hq, d, hd, he⟩ := h
  obtain ⟨rfl, rfl⟩ := Grid.addr_inj hc (lt_of_lt_of_le hd hcfg.three_le_nch) he
  exact ⟨hq, hd⟩

/-- Settles O37: ENC writes R, G and B of the pixels below P only, and embeds nibbles there. -/
theorem encChannelIsolation : Obligations.EncChannelIsolation := by
  intro s t hchecks hcap hx
  have hok : CommandOk .enc s := ⟨hchecks, hcap⟩
  have hframe : ∀ p c, c < (gridOf s).nch → ¬ (p < requiredPixels s ∧ c < 3) →
      t.lmem.read ((gridOf s).addr p c) = s.lmem.read ((gridOf s).addr p c) :=
    fun p c hc hpc => writeFootprint .enc s t hx _ fun hin => hpc (isChannelOf_addr hchecks.1 hc hin)
  refine ⟨fun p hp c hc => ?_, fun hnch p _ => hframe p 3 (by omega) (by omega),
    fun p hp _ c hc => hframe p c hc (by omega)⟩
  rw [exec_enc_of_ok hok, completeOrFault_bind_ok_next] at hx
  obtain ⟨u, hu, rfl⟩ := hx
  exact encodeGrid_high (s := setCapOk true s) hok hu hp hc

end Sys2Proof.Machine

/-! PROOFS. The nibble repacker (44_nibble_repacker R180 to R184): the byte of two slots as a number, and from this RPK and the
inverse of unpacking, for a byte and at the head of any sequence. -/

namespace Sys2Proof.Machine

/-- The byte of two slots as a number, for slots above 15 too (44 R181): the shift discards the high slot's upper bits and
leaves bits [3:0] free for the low slot. -/
theorem repack_toNat (s0 s1 : Slot) : (repack s0 s1).toNat = 16 * (s0.toNat % 16) + s1.toNat % 16 := by
  have hhigh : (s0 <<< 4).toNat = (s0.toNat % 16) <<< 4 := by
    rw [BitVec.toNat_shiftLeft, Nat.shiftLeft_eq, Nat.shiftLeft_eq]
    omega
  have hlow : s1.toNat % 16 < 2 ^ 4 := Nat.mod_lt _ (by decide)
  calc (repack s0 s1).toNat
      = (s0 <<< 4).toNat ||| (lowNibble s1).toNat := BitVec.toNat_or ..
    _ = (s0.toNat % 16) <<< 4 + s1.toNat % 16 := by
        rw [hhigh, lowNibble_toNat, Nat.shiftLeft_add_eq_or_of_lt hlow]
    _ = 16 * (s0.toNat % 16) + s1.toNat % 16 := by rw [Nat.shiftLeft_eq, Nat.mul_comm]

/-- Settles O14: RES0 takes the byte of the two slots, as a number. -/
theorem rpkJoinsSlots : Obligations.RpkJoinsSlots := by
  intro s0 s1 s
  rw [← repack_toNat]
  rfl

/-! Repacking undoes unpacking (44 R183). -/

/-- Quotient and remainder by 16 make up the byte. -/
theorem repack_highNibble_lowNibble (b : Byte) : repack (highNibble b) (lowNibble b) = b := by
  apply BitVec.eq_of_toNat_eq
  rw [repack_toNat, highNibble_toNat, lowNibble_toNat]
  omega

/-- OddPad looks only behind a head of even length (44 R180). -/
theorem oddPad_append {p : List Slot} (heven : p.length % 2 = 0) (q : List Slot) : oddPad (p ++ q) = p ++ oddPad q := by
  have hparity : (p ++ q).length % 2 = q.length % 2 := by
    rw [List.length_append]
    omega
  rw [oddPad, oddPad, hparity]
  split
  · exact List.append_assoc ..
  · rfl

/-- Unpacked bytes at the head of a sequence come back as they were. -/
theorem repackPairs_flatMap_unpack_append (w : List Byte) (q : List Slot) :
    repackPairs (w.flatMap unpack ++ q) = w ++ repackPairs q := by
  induction w with
  | nil => rfl
  | cons b w ih =>
    calc repackPairs ((b :: w).flatMap unpack ++ q)
        = repack (highNibble b) (lowNibble b) :: repackPairs (w.flatMap unpack ++ q) := rfl
      _ = b :: w ++ repackPairs q := by rw [repack_highNibble_lowNibble, ih, List.cons_append]

/-- Whatever follows a payload's nibble sequence, the payload and its terminator come first, and the rest is reassembled on
its own (44 R182, R183). -/
theorem bytesOf_nibbleSeq_append (u : List Byte) (q : List Slot) :
    bytesOf (nibbleSeq u ++ q) = terminated u ++ bytesOf q := by
  have heven : (nibbleSeq u).length % 2 = 0 := by
    rw [nibbleSeq_length]
    omega
  rw [bytesOf, oddPad_append heven, nibbleSeq, repackPairs_flatMap_unpack_append, bytesOf]

/-- The padding alone reassembles to no byte or to one 0x00 (42 R140; 44 R182). -/
theorem bytesOf_padding (n : Nat) :
    bytesOf (List.replicate (padCount n) 0) = [] ∨ bytesOf (List.replicate (padCount n) 0) = [0x00] := by
  rw [padCount_eq_ite]
  split_ifs
  · exact .inr rfl
  · exact .inr rfl
  · exact .inl rfl

/-- Settles O58: a payload's nibble sequence, alone or with its padding behind it, reassembles from the head. -/
theorem repackInvertsUnpack : Obligations.RepackInvertsUnpack := by
  refine ⟨fun b => ⟨highNibble b, lowNibble b, rfl, repack_highNibble_lowNibble b⟩, fun u => ?_, fun u => ?_⟩
  · have hnil : bytesOf [] = [] := rfl
    simpa [hnil, terminated] using bytesOf_nibbleSeq_append u []
  · rw [padSeq, bytesOf_nibbleSeq_append]
    obtain hpad | hpad := bytesOf_padding (nibbleSeq u).length
    · exact .inl (by rw [hpad, List.append_nil, terminated])
    · exact .inr (by rw [hpad, terminated, List.append_assoc]; rfl)

end Sys2Proof.Machine

/-! PROOFS. The terminator detector (45_terminator_detector R200 to R205): what Terminate answers with and without a
terminator, and from this its locality, the truncation of a payload with a zero byte, and TDET. -/

namespace Sys2Proof.Machine

/-! The two cases of Terminate (45 R201). -/

/-- Bytes that hold no terminator stay, and Terminate goes on behind them. -/
theorem terminate_append_of_notMem {p : List Byte} (h : 0x00 ∉ p) (q : List Byte) :
    terminate (p ++ q) = (p ++ (terminate q).1, (terminate q).2) := by
  induction p with
  | nil => rfl
  | cons b p ih =>
    have hterm : isTerm b = false := beq_false_of_ne (Ne.symm (List.ne_of_not_mem_cons h))
    rw [List.cons_append, terminate, hterm, ih (List.not_mem_of_not_mem_cons h)]
    rfl

/-- Without a terminator every byte stays. -/
theorem terminate_of_notMem {bs : List Byte} (h : 0x00 ∉ bs) : terminate bs = (bs, false) := by
  simpa [terminate] using terminate_append_of_notMem h []

/-- The bytes before the first terminator stay, whatever follows it. -/
theorem terminate_append_zero {p : List Byte} (h : 0x00 ∉ p) (q : List Byte) :
    terminate (p ++ 0x00 :: q) = (p, true) := by
  have hzero : terminate (0x00 :: q) = ([], true) := rfl
  rw [terminate_append_of_notMem h, hzero, List.append_nil]

/-! The consequences (45 R202, R203). -/

/-- A sequence whose first n bytes are fewer than n has no others. -/
theorem eq_of_take_eq_of_length_lt {bs cs : List Byte} {n : Nat} (h : cs.take n = bs) (hlt : bs.length < n) : cs = bs := by
  have hlen : cs.length ≤ n := by
    rw [← h, List.length_take] at hlt
    omega
  rwa [List.take_of_length_le hlen] at h

/-- No byte after the first terminator, or after the end where there is none, can change the outcome (45 R202). -/
theorem terminate_eq_of_take_eq {bs cs : List Byte}
    (h : cs.take ((terminate bs).1.length + 1) = bs.take ((terminate bs).1.length + 1)) :
    terminate cs = terminate bs := by
  by_cases hmem : 0x00 ∈ bs
  · obtain ⟨p, q, rfl, hp⟩ := List.eq_append_cons_of_mem hmem
    rw [terminate_append_zero hp] at h ⊢
    have hcs : cs = p ++ 0x00 :: cs.drop (p.length + 1) := by
      calc cs = cs.take (p.length + 1) ++ cs.drop (p.length + 1) := (List.take_append_drop ..).symm
        _ = (p ++ [0x00]) ++ cs.drop (p.length + 1) := by rw [h, List.take_length_add_append]; rfl
        _ = p ++ 0x00 :: cs.drop (p.length + 1) := List.append_assoc ..
    rw [hcs, terminate_append_zero hp]
  · rw [terminate_of_notMem hmem, List.take_of_length_le (Nat.le_succ _)] at h
    rw [eq_of_take_eq_of_length_lt h (Nat.lt_succ_self _)]

/-- Settles O59: the content and the length of the result, then its locality. -/
theorem terminateProperties : Obligations.TerminateProperties := by
  intro bs
  obtain ⟨-, hne⟩ := terminate_take bs
  obtain ⟨hle, hfound, -⟩ := terminate_found bs
  exact ⟨fun hmem => hne _ hmem rfl, hle, hfound, fun _ => terminate_eq_of_take_eq⟩

/-- Settles O60: the payload comes back with its terminator behind it, and Terminate stops at the payload's own zero. -/
theorem internalZeroTruncates : Obligations.InternalZeroTruncates := by
  intro u k hk hfirst
  obtain ⟨-, hbytes, -⟩ := repackInvertsUnpack
  obtain ⟨hlt, hzero⟩ := List.getElem?_eq_some_iff.1 hk
  have hsplit : u = u.take k ++ 0x00 :: u.drop (k + 1) := by
    rw [← hzero, List.getElem_cons_drop, List.take_append_drop]
  have hbefore : 0x00 ∉ u.take k := by
    intro hmem
    obtain ⟨j, hj, hget⟩ := List.mem_take_iff_getElem.1 hmem
    exact hfirst j (by omega) (List.getElem?_eq_some_iff.2 ⟨by omega, hget⟩)
  calc terminate (bytesOf (nibbleSeq u))
      = terminate (u.take k ++ 0x00 :: (u.drop (k + 1) ++ [0x00])) := by
        rw [hbytes, ← List.cons_append, ← List.append_assoc, ← hsplit]
    _ = (u.take k, true) := terminate_append_zero hbefore _

/-! TDET (45 R200, R205). -/

/-- RES0 takes the test of the terminator as a number. -/
theorem ofNat_isTerm_toNat (b : Byte) : BitVec.ofNat 32 (isTerm b).toNat = if b = 0x00 then 1 else 0 := by
  by_cases hb : b = 0x00
  · rw [if_pos hb, hb]
    rfl
  · have hterm : isTerm b = false := beq_false_of_ne hb
    rw [if_neg hb, hterm]
    rfl

/-- Settles O15: RES0 and TERM_FOUND take the same test of the byte. -/
theorem tdetTestsTerminator : Obligations.TdetTestsTerminator := by
  intro b s
  rw [← ofNat_isTerm_toNat]
  rfl

end Sys2Proof.Machine

/-! PROOFS. The encoder and the decoder (46_encoder_decoder R220 to R236): which check of DEC and ENC fails first, that a
command on its conditions completes and leaves the error record, the values ENC embeds and DEC recovers, and that DEC undoes
ENC. -/

namespace Sys2Proof.Machine

variable {s t : State}

/-- Settles O11: NOP is the completion alone. -/
theorem nopCompletes : Obligations.NopCompletes := fun _ => rfl

/-! Errors (60_exceptions R266, R267). -/

/-- Settles O23: with the checks before it passed, the capacity check fails, after CAP_OK <- 0. -/
theorem encCapacityError : Obligations.EncCapacityError := by
  intro s hchecks hcap
  have hfull : ¬ capacityOk s.payLen.toNat s.gridW.toNat s.gridH.toNat = true := by
    rw [capacityOk_iff]
    omega
  have hexec : exec .enc s = raise ⟨.capacity, BitVec.ofNat 32 (reqPixels s.payLen.toNat)⟩ (setCapOk false s) := by
    simp only [exec, execEnc, (payloadGridChecks_none_iff s).2 hchecks, if_neg hfull]
  rw [hexec, raise_eq_afterError, reqPixels_eq]
  rfl

/-- The order of DEC's checks (60_exceptions R266, R267). -/
theorem firstRaise_gridOutputChecks (s : State) : firstRaise (gridOutputChecks s) =
    if ¬ ConfigOk s then some ⟨.config, s.gridNch.setWidth 32⟩
    else if ¬ RegionOk s (gridOf s).region then some ⟨.addrRange, 2⟩
    else if ¬ RegionOk s (outputRegion s) then some ⟨.addrRange, 3⟩
    else if RegionsOverlap (gridOf s).region (outputRegion s) then some ⟨.overlap, 0x23⟩
    else none := by
  simp only [gridOutputChecks, firstRaise_cons, checkConfig_fails_iff, checkRange_fails_iff, checkOverlap_fails_iff]
  rfl

/-- DEC ends at the first check of its list that fails (46 R230). -/
theorem exec_dec_of_gridOutputChecks {r : Raise} (hr : firstRaise (gridOutputChecks s) = some r) :
    exec .dec s = .next (afterError r.cause.code r.info s) := by
  rw [← raise_eq_afterError]
  simp only [exec, execDec, hr]

/-- Settles O24: the conditions of each clause say which check of the list is the first to fail. -/
theorem decErrorOrder : Obligations.DecErrorOrder := by
  intro s
  have hfirst := firstRaise_gridOutputChecks s
  refine ⟨fun hc => ?_, fun hc hg => ?_, fun hc hg ho => ?_, fun hc hg ho hv => ?_⟩
  · rw [if_pos hc] at hfirst
    exact exec_dec_of_gridOutputChecks hfirst
  · rw [if_neg (not_not_intro hc), if_pos hg] at hfirst
    exact exec_dec_of_gridOutputChecks hfirst
  · rw [if_neg (not_not_intro hc), if_neg (not_not_intro hg), if_pos ho] at hfirst
    exact exec_dec_of_gridOutputChecks hfirst
  · rw [if_neg (not_not_intro hc), if_neg (not_not_intro hg), if_neg (not_not_intro ho), if_pos hv] at hfirst
    exact exec_dec_of_gridOutputChecks hfirst

/-! Completion (60_exceptions R260, R267). -/

/-- The error record of one state is that of another. -/
def SameErrorRecord (s t : State) : Prop :=
  t.err = s.err ∧ t.errOvf = s.errOvf ∧ t.cause = s.cause ∧ t.errInfo = s.errInfo

theorem SameErrorRecord.refl (s : State) : SameErrorRecord s s := ⟨rfl, rfl, rfl, rfl⟩

theorem OnlyLmemDiffers.sameErrorRecord (h : OnlyLmemDiffers s t) : SameErrorRecord s t := by
  obtain ⟨m, rfl⟩ := h
  exact .refl s

/-- A command that meets its conditions leaves the error record: it stores bytes of LMEM, then writes result registers. -/
theorem exec_sameErrorRecord_of_ok {i : Instr} (h : CommandOk i s) (hx : exec i s = .next t) : SameErrorRecord s t := by
  cases i with
  | enc =>
    rw [exec_enc_of_ok h, completeOrFault_bind_ok_next] at hx
    obtain ⟨u, hu, rfl⟩ := hx
    exact (encodeGrid_onlyLmemDiffers hu).sameErrorRecord
  | dec =>
    rw [exec_dec_of_ok h, completeOrFault_next] at hx
    obtain ⟨u, hu, rfl⟩ := hx
    obtain ⟨d, -, hw⟩ := except_bind_eq_ok.1 hu
    obtain ⟨v, hv, ⟨⟩⟩ := except_bind_eq_ok.1 hw
    exact (writeBytes_onlyLmemDiffers hv).sameErrorRecord
  | dpix t0 t1 t2 =>
    rw [exec_dpix_of_ok h, completeOrFault_bind_ok_next] at hx
    obtain ⟨u, hu, rfl⟩ := hx
    exact (embedPixel_onlyLmemDiffers hu).sameErrorRecord
  | gpix =>
    rw [exec_gpix_of_ok h, completeOrFault_bind_ok_next] at hx
    obtain ⟨d, -, rfl⟩ := hx
    exact .refl s
  | capq => rw [exec_capq_of_ok h] at hx; cases hx; exact .refl s
  | nop | unpk | padc | rpk | tdet => cases hx; exact .refl s

/-- A command whose footprint is written has no fault. -/
theorem exec_next_of_written {i : Instr} (hw : ∀ a, mayRead i s a → (s.lmem.read a).isSome = true) :
    ∃ t, exec i s = .next t := by
  obtain ⟨x, hx⟩ := exec_eq_completeOrFault i s
  cases x with
  | ok u => exact ⟨_, hx⟩
  | error f =>
    obtain ⟨a, ha, hnone, -⟩ := onlyUnwrittenReadsFault i s f hx
    have hsome := hw a ha
    simp [hnone] at hsome

/-- Settles O32: no fault on a written footprint, and the error record stays on the conditions. -/
theorem commandCompletesWhenOk : Obligations.CommandCompletesWhenOk := by
  intro i s h hw
  obtain ⟨t, hx⟩ := exec_next_of_written hw
  obtain ⟨hbusy, hdone, -⟩ := configurationIsNeverWritten i s t hx
  exact ⟨t, hx, hbusy, hdone, exec_sameErrorRecord_of_ok h hx⟩

/-! What ENC embeds (46 R222, R225). -/

/-- Byte j of the payload with its terminator, and zeros behind it (41 R121). -/
def payloadByte (s : State) (j : Nat) : Byte := if j < s.payLen.toNat then byteOr0 s (s.payBase.toNat + j) else 0

theorem payloadByte_of_lt {j : Nat} (h : j < s.payLen.toNat) : payloadByte s j = byteOr0 s (s.payBase.toNat + j) :=
  if_pos h

@[simp] theorem payloadByte_payLen (s : State) : payloadByte s s.payLen.toNat = 0 := if_neg (lt_irrefl _)

/-- The mask of the high nibble takes nothing from a byte shifted right by four (41 R120). -/
theorem highNibble_eq_ushiftRight (b : Byte) : highNibble b = b >>> 4 := by
  apply BitVec.eq_of_toNat_eq
  rw [highNibble_toNat, BitVec.toNat_ushiftRight, Nat.shiftRight_eq_div_pow]

/-- Nibble k of the padded sequence is the high or the low nibble of byte k / 2 (41 R120, R122). -/
theorem payloadNibble_eq (s : State) (k : Nat) :
    payloadNibble s k = if k % 2 = 0 then highNibble (payloadByte s (k / 2)) else lowNibble (payloadByte s (k / 2)) := by
  unfold payloadNibble payloadByte
  split
  · rw [highNibble_eq_ushiftRight]
    rfl
  · exact (ite_self _).symm

/-- The payload that ENC reads, with zeros behind it. -/
theorem readBytes_getD {i : Instr} {u : List Byte} (hu : readBytes i s s.payBase.toNat s.payLen.toNat = .ok u) (j : Nat) :
    u.getD j 0 = payloadByte s j := by
  obtain ⟨hlen, hread⟩ := readBytes_ok hu
  unfold payloadByte
  split
  · rw [byteOr0, hread j ‹_›, List.getD_eq_getElem?_getD]
  · exact List.getD_eq_default _ _ (by omega)

/-- The slots that ENC embeds are the payload's nibbles, described apart from the unit functions. -/
theorem padSeq_nibbleSeq_getD_eq_payloadNibble {i : Instr} {u : List Byte}
    (hu : readBytes i s s.payBase.toNat s.payLen.toNat = .ok u) (k : Nat) :
    (padSeq (nibbleSeq u)).getD k 0 = payloadNibble s k := by
  rw [padSeq_getD, nibbleSeq_getD, readBytes_getD hu, payloadNibble_eq]

/-- Settles O19: ENC completes on its written footprint, and its transform is read off channel by channel. -/
theorem encEmbedsPayload : Obligations.EncEmbedsPayload := by
  intro s hchecks hcap hpay hch
  have hok : CommandOk .enc s := ⟨hchecks, hcap⟩
  have hfoot : ∀ a, mayRead .enc s a → (s.lmem.read a).isSome = true := by
    rintro a (⟨hlo, hhi⟩ | ⟨p, hp, c, hc, rfl⟩)
    · obtain ⟨j, rfl⟩ := Nat.exists_eq_add_of_le hlo
      exact hpay j (by omega)
    · exact hch p hp c hc
  obtain ⟨t, hx⟩ := exec_next_of_written hfoot
  have hframe := writeFootprint .enc s t hx
  obtain ⟨v, hv, rfl⟩ := completeOrFault_bind_ok_next.1 ((exec_enc_of_ok hok).symm.trans hx)
  refine ⟨_, hx, ?_, fun p hp c hc => ?_, hframe⟩
  · obtain ⟨m, rfl⟩ := encodeGrid_onlyLmemDiffers hv
    rfl
  · obtain ⟨u, hu, hembed⟩ := encodeGrid_channel (s := setCapOk true s) hok hv
    have hslot : (padSeq (nibbleSeq u)).getD (3 * p + c) 0 = payloadNibble s (3 * p + c) :=
      padSeq_nibbleSeq_getD_eq_payloadNibble hu _
    calc v.lmem.read ((gridOf s).addr p c)
        = (s.lmem.read ((gridOf s).addr p c)).map fun b => embed b ((padSeq (nibbleSeq u)).getD (3 * p + c) 0) :=
          hembed p hp c hc
      _ = some (embed (byteOr0 s ((gridOf s).addr p c)) (payloadNibble s (3 * p + c))) := by
          rw [read_eq_byteOr0 (hch p hp c hc), hslot, Option.map_some]

/-! What DEC recovers (46 R230, R233). -/

/-- A slot that holds one nibble is its own low nibble (41 R120). -/
theorem lowNibble_lowNibble (b : Byte) : lowNibble (lowNibble b) = lowNibble b := by
  rw [lowNibble, lowNibble, BitVec.and_assoc, BitVec.and_self]

/-- A grid nibble has no bit above the low four. -/
theorem lowNibble_gridNibble (s : State) (k : Nat) : lowNibble (gridNibble s k) = gridNibble s k := by
  unfold gridNibble
  split
  · exact lowNibble_lowNibble _
  · rfl

/-- A byte reassembled from the grid is the byte of its two slots (44 R181). -/
theorem repack_gridNibble (s : State) (j : Nat) :
    repack (gridNibble s (2 * j)) (gridNibble s (2 * j + 1)) = gridByte s j := by
  have hlow := lowNibble_gridNibble s (2 * j + 1)
  rw [lowNibble] at hlow
  rw [repack, hlow, gridByte]

/-- GatherAll on a written grid gives its nibbles in row-major order (43 R165). -/
theorem gatherPixels_grid {i : Instr} (hcfg : ConfigOk s) (hreg : RegionOk s (gridOf s).region)
    (hw : ChannelsWritten s (gridOf s).pixels) :
    ∃ q, gatherPixels i (gridOf s) s 0 (gridOf s).pixels = .ok q ∧ q.length = 3 * (gridOf s).pixels
      ∧ ∀ k, q.getD k 0 = gridNibble s k := by
  obtain ⟨q, hq, hlen, hget⟩ := gatherPixels_spec (i := i) (g := gridOf s) (s := s) (n := (gridOf s).pixels) (p := 0)
    (fun k hk c hc => hcfg.channel_lt hreg (by omega) hc) (by simpa using hw)
  refine ⟨q, hq, hlen, fun k => ?_⟩
  unfold gridNibble
  split
  · have hp : k / 3 < (gridOf s).pixels := by omega
    have hc : k % 3 < 3 := Nat.mod_lt k (by decide)
    have hk := hget (k / 3) hp (k % 3) hc
    rw [Nat.div_add_mod, Nat.zero_add, read_eq_byteOr0 (hw _ hp _ hc)] at hk
    rw [List.getD_eq_getElem?_getD, hk]
    rfl
  · exact List.getD_eq_default _ _ (by omega)

/-- DEC's transform on a written grid is Terminate on the grid's bytes (46 R230). -/
theorem decodeGrid_eq_terminate (h : GridOutputOk s) (hw : ChannelsWritten s (gridOf s).pixels) :
    ∃ bs, decodeGrid s = .ok (terminate bs) ∧ bs.length = gridByteCount s
      ∧ ∀ j, j < gridByteCount s → bs[j]? = some (gridByte s j) := by
  obtain ⟨hcfg, hreg, -⟩ := h
  obtain ⟨q, hq, hlen, hget⟩ := gatherPixels_grid (i := .dec) hcfg hreg hw
  refine ⟨bytesOf q, except_bind_eq_ok.2 ⟨q, hq, rfl⟩, ?_, fun j hj => ?_⟩
  · rw [bytesOf_length, hlen, gridByteCount]
  · rw [bytesOf_getElem? q j (by rwa [hlen]), hget, hget, repack_gridNibble]

/-- The bytes before the terminator are the sequence's first (45 R201). -/
theorem terminate_getElem? {bs : List Byte} {j : Nat} (hj : j < (terminate bs).1.length) :
    (terminate bs).1[j]? = bs[j]? := by
  obtain ⟨htake, -⟩ := terminate_take bs
  calc (terminate bs).1[j]?
      = (bs.take (terminate bs).1.length)[j]? := by rw [← htake]
    _ = bs[j]? := List.getElem?_take_of_lt hj

/-- The stored bytes of a result read back, as many as OUT_MAX allows (46 R233). -/
theorem writeBytes_output_read (h : RegionOk s (outputRegion s)) {r : List Byte}
    (hx : writeBytes s.outBase.toNat (r.take (min r.length s.outMax.toNat)) s = .ok t) {j : Nat}
    (hj : j < min r.length s.outMax.toNat) : t.lmem.read (s.outBase.toNat + j) = r[j]? := by
  have hlen : (r.take (min r.length s.outMax.toNat)).length = min r.length s.outMax.toNat := by simp
  have hin : s.outBase.toNat + (r.take (min r.length s.outMax.toNat)).length ≤ s.platform.lmemBytes := by
    rw [hlen]
    change s.outMax.toNat = 0 ∨ s.outBase.toNat + s.outMax.toNat ≤ _ at h
    omega
  obtain ⟨m, hok, hread, -⟩ := writeBytes_spec (.inr hin)
  cases hx.symm.trans hok
  rw [setLmem_lmem, hread j (by omega), List.getElem?_take_of_lt hj]

/-- DEC's register writes and its completion, written out. -/
theorem finish_decode_writes (m : Memory) (n k : Nat) (found cut : Bool) (s : State) :
    finish (setTrunc cut (setTermFound found (writeRes1 k (writeRes0 n (setLmem m s))))) =
      { s with
        lmem := m
        res0 := BitVec.ofNat 32 n
        res1 := BitVec.ofNat 32 k
        termFound := found
        trunc := cut
        busy := false
        done := true } := by
  cases s
  rfl

/-- DEC on its conditions, once its transform has found `d`: the first bytes stand at OUT_BASE, as many as OUT_MAX allows, and
the rest is register writes (46 R232, R233). -/
theorem exec_dec_of_decodeGrid (h : GridOutputOk s) {d : List Byte × Bool} (hd : decodeGrid s = .ok d) :
    ∃ m, exec .dec s = .next { s with
        lmem := m
        res0 := BitVec.ofNat 32 d.1.length
        res1 := BitVec.ofNat 32 (min d.1.length s.outMax.toNat)
        termFound := d.2
        trunc := decide (s.outMax.toNat < d.1.length)
        busy := false
        done := true }
      ∧ (∀ j, j < min d.1.length s.outMax.toNat → m.read (s.outBase.toNat + j) = d.1[j]?)
      ∧ ∀ a, ¬ (s.outBase.toNat ≤ a ∧ a < s.outBase.toNat + min d.1.length s.outMax.toNat) →
        m.read a = s.lmem.read a := by
  have ⟨_, _, hout, _⟩ := h
  obtain ⟨m, hwrite, hframe⟩ := writeBytes_output hout d.1
  refine ⟨m, ?_, fun j hj => writeBytes_output_read hout hwrite hj, hframe⟩
  rw [exec_dec_of_ok h]
  simp only [hd, hwrite, bind, Except.bind]
  exact congrArg Host.Outcome.next (finish_decode_writes ..)

/-- Settles O20: n is the length of Terminate's result on the grid's bytes. -/
theorem decRecoversBytes : Obligations.DecRecoversBytes := by
  intro s h hw
  obtain ⟨bs, hdec, hlen, hbyte⟩ := decodeGrid_eq_terminate h hw
  obtain ⟨-, hne⟩ := terminate_take bs
  obtain ⟨hle, hfound, hzero⟩ := terminate_found bs
  rw [hlen] at hle hfound hzero
  have hflag : (terminate bs).2 = decide ((terminate bs).1.length < gridByteCount s) :=
    Bool.eq_iff_iff.2 (hfound.trans decide_eq_true_iff.symm)
  have hres : ∀ j, j < (terminate bs).1.length → (terminate bs).1[j]? = some (gridByte s j) :=
    fun j hj => (terminate_getElem? hj).trans (hbyte j (by omega))
  obtain ⟨m, hx, hread, hframe⟩ := exec_dec_of_decodeGrid h hdec
  refine ⟨(terminate bs).1.length, _, hle, fun j hj => ?_, fun hlt => ?_, hx, by rw [hflag], fun j hj => ?_, hframe⟩
  · exact hne _ (List.mem_of_getElem? (hres j hj))
  · exact Option.some.inj ((hbyte _ hlt).symm.trans (hzero hlt))
  · exact (hread j hj).trans (hres j (by omega))

/-! DEC undoes ENC (46 R236). -/

/-- A payload nibble has no bit above the low four. -/
theorem lowNibble_payloadNibble (s : State) (k : Nat) : lowNibble (payloadNibble s k) = payloadNibble s k := by
  rw [payloadNibble_eq]
  split
  · apply BitVec.eq_of_toNat_eq
    rw [lowNibble_toNat, highNibble_toNat]
    omega
  · exact lowNibble_lowNibble _

/-- The nibbles of a payload byte join to the byte (44 R183). -/
theorem repack_payloadNibble (s : State) (j : Nat) :
    repack (payloadNibble s (2 * j)) (payloadNibble s (2 * j + 1)) = payloadByte s j := by
  obtain ⟨heven, hhalf⟩ : 2 * j % 2 = 0 ∧ 2 * j / 2 = j := by omega
  obtain ⟨hodd, hhalf'⟩ : (2 * j + 1) % 2 = 1 ∧ (2 * j + 1) / 2 = j := by omega
  rw [payloadNibble_eq, payloadNibble_eq, heven, hhalf, hodd, hhalf']
  exact repack_highNibble_lowNibble _

/-- Extracting gives back the slot that was embedded (43 R162). -/
theorem lowNibble_embed {v : Byte} {n : Slot} (hn : lowNibble n = n) : lowNibble (embed v n) = n := by
  have hmask : (0xF0 : Byte) &&& 0x0F = 0#8 := rfl
  have hdistrib : lowNibble (embed v n) = (v &&& (0xF0 &&& 0x0F)) ||| lowNibble n := by
    rw [lowNibble, embed, BitVec.and_or_distrib_right, BitVec.and_assoc, lowNibble]
  rw [hdistrib, hmask, BitVec.and_zero, BitVec.zero_or, hn]

/-- What DEC reads on a grid in which ENC has embedded the payload. -/
def GridHoldsPayload (s t : State) : Prop :=
  ∀ k, k < 3 * requiredPixels s → gridNibble t k = payloadNibble s k

/-- ENC's channels, read as grid nibbles, are the payload's (46 R226). -/
theorem gridHoldsPayload_of_channels (hgrid : gridOf t = gridOf s) (hcap : requiredPixels s ≤ (gridOf s).pixels)
    (hread : ∀ p, p < requiredPixels s → ∀ c, c < 3 → t.lmem.read ((gridOf s).addr p c) =
      some ((byteOr0 s ((gridOf s).addr p c) &&& 0xF0) ||| payloadNibble s (3 * p + c))) : GridHoldsPayload s t := by
  intro k hk
  have hslot := hread (k / 3) (by omega) (k % 3) (Nat.mod_lt k (by decide))
  rw [Nat.div_add_mod] at hslot
  rw [gridNibble, hgrid, if_pos (by omega), byteOr0, hslot]
  exact lowNibble_embed (lowNibble_payloadNibble s k)

/-- The payload and its terminator stand at the head of the grid's bytes. -/
theorem GridHoldsPayload.gridByte_eq (h : GridHoldsPayload s t) {j : Nat} (hj : j ≤ s.payLen.toNat) :
    gridByte t j = payloadByte s j := by
  have hlast : 2 * j + 1 < 3 * requiredPixels s := by
    unfold requiredPixels
    omega
  rw [← repack_gridNibble, h _ (by omega), h _ hlast, repack_payloadNibble]

/-- A grid with room for the payload gives a byte for its terminator too (42 R143). -/
theorem payLen_lt_gridByteCount (hcap : requiredPixels s ≤ (gridOf s).pixels) : s.payLen.toNat < gridByteCount s := by
  unfold requiredPixels at hcap
  unfold gridByteCount
  omega

/-- The first 0x00 of the grid's bytes is the terminator of a payload without a 0x00 (45 R203). -/
theorem GridHoldsPayload.length_eq (h : GridHoldsPayload s t) {n : Nat}
    (hnz : ∀ j, j < s.payLen.toNat → byteOr0 s (s.payBase.toNat + j) ≠ 0) (hlt : s.payLen.toNat < gridByteCount t)
    (hbefore : ∀ j, j < n → gridByte t j ≠ 0) (hzero : n < gridByteCount t → gridByte t n = 0) :
    n = s.payLen.toNat := by
  obtain hn | hn | hn := lt_trichotomy n s.payLen.toNat
  · have hbyte := hzero (by omega)
    rw [h.gridByte_eq hn.le, payloadByte_of_lt hn] at hbyte
    exact absurd hbyte (hnz n hn)
  · exact hn
  · exact absurd ((h.gridByte_eq le_rfl).trans (payloadByte_payLen s)) (hbefore _ hn)

/-- A byte that is written before ENC is written after it. -/
theorem exec_enc_keeps_written (hok : CommandOk .enc s) (hx : exec .enc s = .next t) {a : Nat}
    (ha : (s.lmem.read a).isSome = true) : (t.lmem.read a).isSome = true := by
  by_cases hin : IsChannelOf s (requiredPixels s) a
  · obtain ⟨p, hp, c, hc, rfl⟩ := hin
    obtain ⟨hconsumed, -⟩ := encChannelIsolation s t hok.1 hok.2 hx
    obtain ⟨_, new, -, hnew, -⟩ := hconsumed p hp c hc
    exact Option.isSome_iff_exists.2 ⟨new, hnew⟩
  · rwa [writeFootprint .enc s t hx a hin]

/-- Settles O21: DEC's first zero byte on the encoded grid is the payload's terminator. -/
theorem encThenDecRoundTrip : Obligations.EncThenDecRoundTrip := by
  intro s hchecks hcap hout hapart hpay hch hnz hmax
  obtain ⟨t, hx, ht, hembed, -⟩ := encEmbedsPayload s hchecks hcap hpay fun p hp => hch p (by omega)
  have hgrid : gridOf t = gridOf s := by rw [ht]; rfl
  have houtBase : t.outBase = s.outBase := by rw [ht]
  have houtMax : t.outMax = s.outMax := by rw [ht]
  have hdec : GridOutputOk t := by
    rw [ht]
    exact ⟨hchecks.1, hchecks.2.2.1, hout, hapart⟩
  have hwritten : ChannelsWritten t (gridOf t).pixels := by
    rw [ChannelsWritten, hgrid]
    exact fun p hp c hc => exec_enc_keeps_written ⟨hchecks, hcap⟩ hx (hch p hp c hc)
  have hholds := gridHoldsPayload_of_channels hgrid hcap hembed
  have hroom : s.payLen.toNat < gridByteCount t := by
    rw [gridByteCount, hgrid]
    exact payLen_lt_gridByteCount hcap
  obtain ⟨n, u, -, hbefore, hzero, hy, hu, hread, -⟩ := decRecoversBytes t hdec hwritten
  obtain rfl : n = s.payLen.toNat := hholds.length_eq hnz hroom hbefore hzero
  rw [houtMax, min_eq_left hmax] at hu hread
  rw [houtBase] at hread
  have hlen : BitVec.ofNat 32 s.payLen.toNat = s.payLen := BitVec.ofNat_toNat ..
  refine ⟨t, u, hx, hy, fun j hj => ?_, ?_, ?_, ?_, ?_⟩
  · rw [hread j hj, hholds.gridByte_eq hj.le, payloadByte_of_lt hj, read_eq_byteOr0 (hpay j hj)]
  · rw [hu, hlen]
  · rw [hu, hlen]
  · rw [hu, decide_eq_true hroom]
  · rw [hu, decide_eq_false (not_lt.2 hmax)]

end Sys2Proof.Machine

/-! PROOFS. Errors (60_exceptions R262 to R265, R281): what `record_error` leaves, how a command that does not meet its
conditions and an illegal word end, and that an idle block waits. -/

namespace Sys2Proof.Machine

variable {s : State}

/-! Recording (60_exceptions R263). -/

/-- Settles O28: ERR decides between the two branches. -/
theorem firstErrorIsKept : Obligations.FirstErrorIsKept := by
  refine fun r s => ⟨fun hs => ?_, fun hs => ?_⟩
  · exact if_neg (ne_true_of_eq_false hs)
  · exact if_pos hs

/-! A command that does not meet its conditions (60_exceptions R264, R267). -/

/-- A list of checks whose conditions do not hold raises an error. -/
theorem exists_firstRaise {l : List (Bool × Raise)} {p : Prop} (hl : firstRaise l = none ↔ p) (hp : ¬ p) :
    ∃ r, firstRaise l = some r :=
  Option.ne_none_iff_exists'.1 fun hn => hp (hl.1 hn)

/-- A command that does not meet its conditions ends in the state after an error, which ENC's capacity error enters with
CAP_OK = 0 (46 R224) and every other error with the registers as they were. -/
theorem exec_afterError_of_not_commandOk {i : Instr} (h : ¬ CommandOk i s) :
    ∃ code info, exec i s = .next (afterError code info s)
      ∨ i = .enc ∧ PayloadGridOk s ∧ exec i s = .next (afterError code info { s with capOk := false }) := by
  cases i with
  | enc =>
    by_cases hchecks : PayloadGridOk s
    · have hcap : (gridOf s).pixels < requiredPixels s := not_le.1 fun hle => h ⟨hchecks, hle⟩
      exact ⟨_, _, .inr ⟨rfl, hchecks, encCapacityError s hchecks hcap⟩⟩
    · obtain ⟨r, hr⟩ := exists_firstRaise (payloadGridChecks_none_iff s) hchecks
      exact ⟨_, _, .inl (exec_of_payloadGridChecks (.inl rfl) hr)⟩
  | capq =>
    obtain ⟨r, hr⟩ := exists_firstRaise (payloadGridChecks_none_iff s) h
    exact ⟨_, _, .inl (exec_of_payloadGridChecks (.inr rfl) hr)⟩
  | dec =>
    obtain ⟨r, hr⟩ := exists_firstRaise (gridOutputChecks_none_iff s) h
    exact ⟨_, _, .inl (exec_dec_of_gridOutputChecks hr)⟩
  | dpix t0 t1 t2 =>
    obtain ⟨r, hr⟩ := exists_firstRaise (pixelChecks_none_iff s) h
    exact ⟨_, _, .inl (exec_of_pixelChecks r (.inr ⟨t0, t1, t2, rfl⟩) hr)⟩
  | gpix =>
    obtain ⟨r, hr⟩ := exists_firstRaise (pixelChecks_none_iff s) h
    exact ⟨_, _, .inl (exec_of_pixelChecks r (.inl rfl) hr)⟩
  | nop | unpk | padc | rpk | tdet => exact absurd trivial h

/-- Settles O26: the state after an error differs in the error record, BUSY and DONE, and CAP_OK in the one case. -/
theorem errorsArePrecise : Obligations.ErrorsArePrecise := by
  intro i s t h hx
  obtain ⟨code, info, herr | ⟨hi, hchecks, herr⟩⟩ := exec_afterError_of_not_commandOk h
  · cases hx.symm.trans herr
    exact ⟨rfl, rfl, rfl, rfl, rfl, rfl, .inl rfl, rfl⟩
  · cases hx.symm.trans herr
    exact ⟨rfl, rfl, rfl, rfl, rfl, rfl, .inr ⟨hi, hchecks, rfl⟩, rfl⟩

/-! Illegal words (60_exceptions R265). -/

/-- The core's step with a word that does not decode is the error ILLEGAL_CMD with that word. -/
theorem coreStep_of_decode_error {e : Illegal} (h : decode s.cmdLatch = .error e) :
    coreStep s = .next (afterError 1 s.cmdLatch s) := by
  rw [coreStep, h]
  exact raise_eq_afterError ⟨.illegalCmd, s.cmdLatch⟩ s

/-- Settles O9: the acceptance looks at no bit of the word, and the core's step decodes it. -/
theorem illegalWordIsRecorded : Obligations.IllegalWordIsRecorded := by
  intro s w e he
  refine ⟨fun es hb hs hl => ?_, ?_, ?_⟩
  · obtain ⟨-, haccept, -⟩ := cmdWriteAcceptsOrOverruns w s es hs hl
    exact haccept hb
  · rintro rfl
    exact coreStep_of_decode_error he
  · rintro es rfl hb hs
    rw [step_of_core hs, if_pos hb]
    exact coreStep_of_decode_error he

/-! Waiting (60_exceptions R281). -/

/-- Settles O10: with an empty script the step is the core's, or none while BUSY = 0. -/
theorem idleBlockKeepsState : Obligations.IdleBlockKeepsState := fun _ hb hs =>
  (step_of_nil hs).trans (if_neg (ne_true_of_eq_false hb))

end Sys2Proof.Machine
